-- ==== Sys2Proof/Word.lean ====
section
/-! DEFINITION. Word.lean: the fixed-width words of the crypto engine. All register values are unsigned (R10); an
operand register of `OPW` bits is a natural number below `2^OPW` (R21), so it has no word type here. -/

namespace Sys2Proof

/-- A bus word, a command word, a 32-bit hash word: 32 bits, bit 0 the least significant (R10, R60, R80). -/
abbrev Word := BitVec 32

/-- A byte of a buffer or of a message (R12). -/
abbrev Byte := BitVec 8

/-- A 64-bit chaining word or byte counter (R33, R34). -/
abbrev DWord := BitVec 64

/-- The 12-bit word index `off / 4` that the bus port carries (R60): a misaligned or narrow access has no encoding. -/
abbrev WordIdx := BitVec 12

end Sys2Proof
end

