-- ==== Sys2Proof/Syntax.lean ====
section
/-! DEFINITION. Syntax.lean: the eighteen commands (R84), one constructor per row of spec/opcode_table.json, and the
kinds of operand their fields name (R82). -/

namespace Sys2Proof

/-- The number of an operand register `R[0..7]` (R6, R21). -/
abbrev RegIdx := Fin 8

/-- The number of a point register `PT[0..3]` (R6, R37). -/
abbrev PtIdx := Fin 4

/-- The four modes of the SHA-2 engine, codes 0 to 3 in this order (R130). -/
inductive ShaMode where
  | sha224 | sha256 | sha384 | sha512
deriving DecidableEq, Repr

/-- The five hash algorithms that HMAC takes, `alg` codes 0 to 4 (R82, R180): a SHA-2 mode or RIPEMD-160. -/
inductive Alg where
  | sha (mode : ShaMode)
  | rmd160
deriving DecidableEq, Repr

/-- A command. Field names are those of R82; destinations stand before sources, as in the rules' headings. -/
inductive Instr where
  /-- `GCD rd, ra, rb` (R103). -/
  | gcd (rd ra rb : RegIdx)
  /-- `EGCD rd, rc, re, ra, rb` (R104). -/
  | egcd (rd rc re ra rb : RegIdx)
  /-- `MODINV rd, ra, rb` (R106). -/
  | modinv (rd ra rb : RegIdx)
  /-- `SQRTMOD rd, rc, ra, rb, rounds` (R112). -/
  | sqrtmod (rd rc ra rb : RegIdx) (rounds : BitVec 8)
  /-- `SHA_INIT alg` (R140). -/
  | shaInit (alg : ShaMode)
  /-- `SHA_BLOCK` (R141). -/
  | shaBlock
  /-- `SHA_FINAL nbytes` (R142). -/
  | shaFinal (nbytes : BitVec 8)
  /-- `RMD_INIT` (R168). -/
  | rmdInit
  /-- `RMD_BLOCK` (R169). -/
  | rmdBlock
  /-- `RMD_FINAL nbytes` (R170). -/
  | rmdFinal (nbytes : BitVec 8)
  /-- `HMAC_INIT alg, klen` (R184). -/
  | hmacInit (alg : Alg) (klen : BitVec 8)
  /-- `HMAC_FINAL nbytes` (R186). -/
  | hmacFinal (nbytes : BitVec 8)
  /-- `EC_ONCURVE pa` (R209). -/
  | ecOncurve (pa : PtIdx)
  /-- `EC_ADD pd, pa, pb` (R210). -/
  | ecAdd (pd pa pb : PtIdx)
  /-- `EC_DBL pd, pa` (R211). -/
  | ecDbl (pd pa : PtIdx)
  /-- `EC_MUL pd, pa, rk` (R212). -/
  | ecMul (pd pa : PtIdx) (rk : RegIdx)
  /-- `EC_NEG pd, pa` (R213). -/
  | ecNeg (pd pa : PtIdx)
  /-- `EC_LDG pd` (R214). -/
  | ecLdg (pd : PtIdx)
deriving DecidableEq, Repr

end Sys2Proof
end

