-- ==== Sys2Proof/WellFormed.lean ====
section
/-! DEFINITION. WellFormed.lean: the "further legality conditions" of R84 that the types of the fields do not already
make: the destinations of `EGCD` are pairwise different, and those of `SQRTMOD` differ. Every other field has a type that
holds exactly its legal values (`ShaMode` for `alg` 0 to 3, `Alg` for `alg` 0 to 4). -/

namespace Sys2Proof

/-- R84, R85: the destinations of one command do not coincide. -/
def Instr.wellFormed : Instr → Bool
  | .egcd rd rc re _ _ => rd != rc && rd != re && rc != re
  | .sqrtmod rd rc _ _ _ => rd != rc
  | .gcd .. | .modinv .. | .shaInit _ | .shaBlock | .shaFinal _ | .rmdInit | .rmdBlock | .rmdFinal _
  | .hmacInit .. | .hmacFinal _ | .ecOncurve _ | .ecAdd .. | .ecDbl .. | .ecMul .. | .ecNeg .. | .ecLdg _ => true

end Sys2Proof
end

