-- ==== Sys2Proof/Decode.lean ====
section
/-! DEFINITION. Decode.lean: decoding of a command word, total on all `2^32` words (R90), from the table of R84; then the
encoder, from the same table and the field positions of R81 and R82. An illegal word is rejected by the name of the first
test of R90 that it fails; the engine turns each of these into `ERR_ILLEGAL` (R85). -/

namespace Sys2Proof

/-- Why a word is no command (R85). -/
inductive Illegal where
  /-- Bits 7:0 are not one of the eighteen opcodes. -/
  | unknownOpcode
  /-- A must-be-zero bit or an unused field is non-zero. -/
  | reservedBits
  /-- A further legality condition of R84 fails: coinciding destinations, or `HMAC_INIT` with `alg` 5 to 7. -/
  | badOperands
deriving DecidableEq, Repr

/-- `w[lo+len-1 : lo]` as a number (R10). -/
def fieldAt (w : Word) (lo len : Nat) : Nat := (w.extractLsb' lo len).toNat

/-- The 3-bit operand register number at bits `lo+2 : lo` (R82). -/
def regAt (w : Word) (lo : Nat) : RegIdx := ⟨(w.extractLsb' lo 3).toNat, (w.extractLsb' lo 3).isLt⟩

/-- The 2-bit point register number at bits `lo+1 : lo` (R82). -/
def ptAt (w : Word) (lo : Nat) : PtIdx := ⟨(w.extractLsb' lo 2).toNat, (w.extractLsb' lo 2).isLt⟩

/-- The 8-bit immediate at bits `lo+7 : lo` (R83): unsigned, not scaled, not extended. -/
def immAt (w : Word) (lo : Nat) : BitVec 8 := w.extractLsb' lo 8

/-- The mode whose `SMODE` / `alg` code is given (R130); the code is taken modulo 4, so every 2-bit value names a mode. -/
def ShaMode.ofCode (n : Nat) : ShaMode :=
  match n % 4 with
  | 0 => .sha224
  | 1 => .sha256
  | 2 => .sha384
  | _ => .sha512

/-- The `SMODE` / `alg` code of a mode (R130). -/
def ShaMode.code : ShaMode → Nat
  | .sha224 => 0
  | .sha256 => 1
  | .sha384 => 2
  | .sha512 => 3

/-- The algorithm of an `alg` code; 5, 6 and 7 are reserved (R82). -/
def Alg.ofCode (n : Nat) : Option Alg :=
  if n < 4 then some (.sha (.ofCode n)) else if n = 4 then some .rmd160 else none

/-- The `alg` code of an algorithm (R82, R180). -/
def Alg.code : Alg → Nat
  | .sha m => m.code
  | .rmd160 => 4

/-- One row of the opcode map (R84): the opcode, the mask and match values, and the fields it reads. -/
structure OpRow where
  opcode : BitVec 8
  mask : Word
  pattern : Word
  operands : Word → Option Instr

/-- The opcode map of R84, modular-arithmetic rows (format M). -/
def rowsM : List OpRow :=
  [ ⟨0x10, 0xFFFE00FF, 0x00000010, fun w => some (.gcd (regAt w 8) (regAt w 11) (regAt w 14))⟩,
    ⟨0x11, 0xFF8000FF, 0x00000011,
      fun w => some (.egcd (regAt w 8) (regAt w 17) (regAt w 20) (regAt w 11) (regAt w 14))⟩,
    ⟨0x12, 0xFFFE00FF, 0x00000012, fun w => some (.modinv (regAt w 8) (regAt w 11) (regAt w 14))⟩,
    ⟨0x13, 0x00F000FF, 0x00000013,
      fun w => some (.sqrtmod (regAt w 8) (regAt w 17) (regAt w 11) (regAt w 14) (immAt w 24))⟩ ]

/-- The opcode map of R84, hash and HMAC rows (formats H and N). -/
def rowsH : List OpRow :=
  [ ⟨0x20, 0xFFFFFCFF, 0x00000020, fun w => some (.shaInit (.ofCode (fieldAt w 8 2)))⟩,
    ⟨0x21, 0xFFFFFFFF, 0x00000021, fun _ => some .shaBlock⟩,
    ⟨0x22, 0xFF00FFFF, 0x00000022, fun w => some (.shaFinal (immAt w 16))⟩,
    ⟨0x30, 0xFFFFFFFF, 0x00000030, fun _ => some .rmdInit⟩,
    ⟨0x31, 0xFFFFFFFF, 0x00000031, fun _ => some .rmdBlock⟩,
    ⟨0x32, 0xFF00FFFF, 0x00000032, fun w => some (.rmdFinal (immAt w 16))⟩,
    ⟨0x40, 0xFF00F8FF, 0x00000040,
      fun w => (Alg.ofCode (fieldAt w 8 3)).map fun alg => .hmacInit alg (immAt w 16)⟩,
    ⟨0x41, 0xFF00FFFF, 0x00000041, fun w => some (.hmacFinal (immAt w 16))⟩ ]

/-- The opcode map of R84, elliptic-curve rows (format P). -/
def rowsP : List OpRow :=
  [ ⟨0x50, 0xFFFFE7FF, 0x00000050, fun w => some (.ecOncurve (ptAt w 11))⟩,
    ⟨0x51, 0xFFFF24FF, 0x00000051, fun w => some (.ecAdd (ptAt w 8) (ptAt w 11) (ptAt w 14))⟩,
    ⟨0x52, 0xFFFFE4FF, 0x00000052, fun w => some (.ecDbl (ptAt w 8) (ptAt w 11))⟩,
    ⟨0x53, 0xFFF1E4FF, 0x00000053, fun w => some (.ecMul (ptAt w 8) (ptAt w 11) (regAt w 17))⟩,
    ⟨0x54, 0xFFFFE4FF, 0x00000054, fun w => some (.ecNeg (ptAt w 8) (ptAt w 11))⟩,
    ⟨0x55, 0xFFFFFCFF, 0x00000055, fun w => some (.ecLdg (ptAt w 8))⟩ ]

/-- The whole opcode map (R84). -/
def opRows : List OpRow := rowsM ++ rowsH ++ rowsP

/-- The row of an opcode, if it is one of the eighteen. -/
def rowOf (op : BitVec 8) : Option OpRow := opRows.find? fun row => row.opcode == op

/-- The decoding procedure of R90. -/
def decode (w : Word) : Except Illegal Instr :=
  match rowOf (w.extractLsb' 0 8) with
  | none => .error .unknownOpcode
  | some row =>
    if w &&& row.mask = row.pattern then
      match row.operands w with
      | some i => if i.wellFormed then .ok i else .error .badOperands
      | none => .error .badOperands
    else .error .reservedBits

/-- A field value moved to its position (R81, R87). -/
def placed (v lo : Nat) : Word := BitVec.ofNat 32 v <<< lo

/-- The command word of a command: its opcode, or'ed with each field at its position (R81, R82, R87). -/
def encode : Instr → Word
  | .gcd rd ra rb => 0x10#32 ||| placed rd 8 ||| placed ra 11 ||| placed rb 14
  | .egcd rd rc re ra rb =>
    0x11#32 ||| placed rd 8 ||| placed ra 11 ||| placed rb 14 ||| placed rc 17 ||| placed re 20
  | .modinv rd ra rb => 0x12#32 ||| placed rd 8 ||| placed ra 11 ||| placed rb 14
  | .sqrtmod rd rc ra rb rounds =>
    0x13#32 ||| placed rd 8 ||| placed ra 11 ||| placed rb 14 ||| placed rc 17 ||| placed rounds.toNat 24
  | .shaInit alg => 0x20#32 ||| placed alg.code 8
  | .shaBlock => 0x21#32
  | .shaFinal nbytes => 0x22#32 ||| placed nbytes.toNat 16
  | .rmdInit => 0x30#32
  | .rmdBlock => 0x31#32
  | .rmdFinal nbytes => 0x32#32 ||| placed nbytes.toNat 16
  | .hmacInit alg klen => 0x40#32 ||| placed alg.code 8 ||| placed klen.toNat 16
  | .hmacFinal nbytes => 0x41#32 ||| placed nbytes.toNat 16
  | .ecOncurve pa => 0x50#32 ||| placed pa 11
  | .ecAdd pd pa pb => 0x51#32 ||| placed pd 8 ||| placed pa 11 ||| placed pb 14
  | .ecDbl pd pa => 0x52#32 ||| placed pd 8 ||| placed pa 11
  | .ecMul pd pa rk => 0x53#32 ||| placed pd 8 ||| placed pa 11 ||| placed rk 17
  | .ecNeg pd pa => 0x54#32 ||| placed pd 8 ||| placed pa 11
  | .ecLdg pd => 0x55#32 ||| placed pd 8

/-- The command word whose low `nbits` bits are those of `w` and whose other bits are 0. A command is one 32-bit word
(R80), so there is no word order to settle. -/
def commandWord (nbits w : Nat) : Word := BitVec.ofNat 32 (w % 2 ^ nbits)

/-- The command the decoder reads from a table word; `none` where it refuses. -/
def decodeTableWord (nbits w : Nat) : Option Instr := (decode (commandWord nbits w)).toOption

end Sys2Proof
end

