-- ==== Sys2Proof/Config.lean ====
section
/-! DEFINITION. Config.lean: what an implementation fixes (`OPW` and `PRIMETAB`, R5 and R7), carried as plain data, and the
free values the spec leaves open (the draws of `RND`, R8; a busy-time data read, R46). A free value has no body. -/

namespace Sys2Proof

/-- The two parameters of the block that a model takes as arguments (R5, R7). Only legal parameters can be written:
`nwPred + 1` is `NW = OPW/32`, from 1 to 64, so `OPW` is a multiple of 32 in 32..2048; and `PRIMETAB` is given by the
largest number it may reach, so it is always an initial run of the primes (log entries 3 and 4). -/
structure Config where
  /-- `NW - 1`. -/
  nwPred : Fin 64
  /-- `PRIMETAB` holds the primes up to this number; 2 and 3 are in it whatever the number (R7). -/
  primeMax : Nat
deriving DecidableEq, Repr

/-- `NW = OPW/32`, the number of bus words of an operand (R5, R24). -/
def Config.nw (c : Config) : Nat := c.nwPred.val + 1

/-- `OPW`, the operand width in bits (R5). -/
def Config.opw (c : Config) : Nat := 32 * c.nw

/-- The reference configuration: `OPW = 256` (R5) and the first 80 primes, 2 up to 409 (R7). -/
def Config.reference : Config := { nwPred := 7, primeMax := 409 }

/-- FREE VALUE. The answer of `RND` to the `n`-th draw that the model's input queue does not answer, before it is brought
into the range the requesting rule names (R8: a free draw, no law on the values). Log entry 5. -/
opaque Config.rndDraw : Nat → Nat

/-- FREE VALUE. What the `n`-th host read of a data register or buffer while `BUSY = 1` returns: an unspecified 32-bit
value (R46, R73). Log entry 11. -/
opaque Config.busyRead : Nat → Word

end Sys2Proof
end

