-- ==== Sys2Proof/Machine/State.lean ====
section
/-! DEFINITION. Machine/State.lean: everything the spec gives the machine to hold (10_state.md), as plain data, with the
reset state (R40) and the reasons a step can stop. Register reads and writes go through Machine/Operands.lean. -/

namespace Sys2Proof.Machine

/-- Byte memory: pairs of an address and a byte, addresses strictly rising, none equal to what an unlisted address reads
as (`Memory.wf` in Machine/Ops.lean). It holds the byte buffers, the only byte-addressed storage of the block (R60). -/
abbrev Memory := List Host.Cell

/-- The error codes of `STATUS.ERR` (R241); codes 7 to 15 are reserved and never produced, so there is no name for them. -/
inductive ErrCode where
  | ok | illegal | param | seq | modulus | noInverse | notOnCurve
deriving DecidableEq, Repr

/-- A point register (R37): when `inf` is set it holds the point at infinity and `x`, `y` are ignored by every command. -/
structure PointReg where
  x : Nat
  y : Nat
  inf : Bool
deriving DecidableEq, Repr

/-- The random source `RND` as the block meets it (R8): answers already waiting at the input, then a count of the draws
that found none waiting and were answered by the free value `Config.rndDraw`. An input of the block, not its state. -/
structure RndPort where
  waiting : List Nat
  freeDraws : Nat
deriving DecidableEq, Repr

/-- One turn in the order in which the agents act (R20): a host access of the bus (R73), the hardware reset input (R270),
or a turn of the engine (R44). -/
inductive Turn where
  | read (idx : WordIdx)
  | write (idx : WordIdx) (value : Word)
  | hardReset
  | engine
deriving DecidableEq, Repr

/-- The state of the machine. `OPW`-bit registers are natural numbers, below `2^OPW` in every state that
`State.Inv` (Safety.lean) admits; log entry 14. -/
structure State where
  /-- The parameters of this block (R5, R7); no step writes them. -/
  cfg : Config
  /-- Operand registers `R[0..7]`, `OPW` bits each (R21). -/
  r : Vector Nat 8
  /-- Point registers `PT[0..3]` (R37). -/
  pt : Vector PointReg 4
  /-- Curve modulus `p`, `OPW` bits (R36). -/
  cp : Nat
  /-- Curve coefficient `a`, `OPW` bits (R36). -/
  ca : Nat
  /-- Curve coefficient `b`, `OPW` bits (R36). -/
  cb : Nat
  /-- Base point abscissa, `OPW` bits (R36). -/
  gx : Nat
  /-- Base point ordinate, `OPW` bits (R36). -/
  gy : Nat
  /-- Group order, `OPW` bits; storage only (R36). -/
  cn : Nat
  /-- `CMDREG`, the last accepted command word (R22, R25). -/
  cmdreg : Word
  /-- `STATUS.BUSY` (R26). -/
  busy : Bool
  /-- `STATUS.DONE` (R26). -/
  done : Bool
  /-- `STATUS.ERR`, four bits (R26, R241). -/
  err : ErrCode
  /-- `STATUS.RES`, two bits (R26). -/
  res : BitVec 2
  /-- `STATUS.HACT`: an HMAC computation is open (R35). -/
  hact : Bool
  /-- `STATUS.HALG`, three bits: the algorithm of the last `HMAC_INIT` (R35). -/
  halg : Alg
  /-- `CTRL.IE` (R27). -/
  ie : Bool
  /-- `FAULT.WBUSY` (R28). -/
  faultWbusy : Bool
  /-- `FAULT.BADADDR` (R28). -/
  faultBadaddr : Bool
  /-- The byte buffers at their window offsets (R61, R62): `MSG[i]` at `0x100 + i`, `KEY[i]` at `0x180 + i`, `DIG[i]` at
  `0x200 + i` (R30, R31, R32). -/
  mem : Memory
  /-- SHA-2 chaining words `SH[0..7]`, 64 bits each (R33). -/
  sh : Vector DWord 8
  /-- SHA-2 byte count `SLEN` (R33, R143). -/
  slen : DWord
  /-- SHA-2 mode `SMODE`, two bits (R33). -/
  smode : ShaMode
  /-- RIPEMD-160 chaining words `RH[0..4]` (R34). -/
  rh : Vector Word 5
  /-- RIPEMD-160 byte count `RLEN` (R34). -/
  rlen : DWord
  /-- The hidden 128-byte latch `HK0` of the block key (R35, R38), `HK0[i]` at address `i`. -/
  hk0 : Memory
  /-- MODEL'S OWN. The turns still to come, first one first (log entry 8); with none left, the engine acts when busy. -/
  turns : List Turn
  /-- MODEL'S OWN. The random source (R8; log entry 5). -/
  rnd : RndPort
  /-- MODEL'S OWN. How many busy-time data reads were answered by the free value `Config.busyRead` (R46; log entry 11). -/
  busyReads : Nat
  /-- MODEL'S OWN. The bus read data of the last host read (R41 names this output; log entry 10). -/
  rdata : Word
deriving DecidableEq, Repr

/-- Why the machine stops with no next state. -/
inductive Fault where
  /-- Raised by `SQRTMOD` alone, when the primality test accepted a modulus that is composite. R111 calls the behaviour
  unspecified and says that a model should treat the case as a fault, not as a value. Safe: the hardware may go on where
  the model stops. -/
  | sqrtModCompositeModulus
deriving DecidableEq, Repr

/-- Why the model gives an instruction no meaning. -/
inductive Refusal where
  /-- Raised by an arm of `exec` whose instruction has no meaning yet; no arm is such an arm. Safe: nothing is claimed. -/
  | notModelled (mnemonic : String)
deriving DecidableEq, Repr

/-- The state after reset of a block with parameters `c` (R40): control state 0; the data registers, to which the spec
gives no value at reset, hold 0 (log entry 1); the buffers list nothing. -/
def State.resetWith (c : Config) : State where
  cfg := c
  r := #v[0, 0, 0, 0, 0, 0, 0, 0]
  pt := #v[⟨0, 0, false⟩, ⟨0, 0, false⟩, ⟨0, 0, false⟩, ⟨0, 0, false⟩]
  cp := 0
  ca := 0
  cb := 0
  gx := 0
  gy := 0
  cn := 0
  cmdreg := 0
  busy := false
  done := false
  err := .ok
  res := 0
  hact := false
  halg := .sha .sha224
  ie := false
  faultWbusy := false
  faultBadaddr := false
  mem := []
  sh := #v[0, 0, 0, 0, 0, 0, 0, 0]
  slen := 0
  smode := .sha224
  rh := #v[0, 0, 0, 0, 0]
  rlen := 0
  hk0 := []
  turns := []
  rnd := ⟨[], 0⟩
  busyReads := 0
  rdata := 0

/-- The reference block (R5, R7) right after reset (R40). -/
def State.reset : State := State.resetWith Config.reference

end Sys2Proof.Machine
end

