-- ==== Sys2Proof/Machine/Ops.lean ====
section
/-! DEFINITION. Machine/Ops.lean: the operations that every unit shares: byte strings and integers (R12), byte memory,
the draws of `RND` (R8), and the life of a command: acceptance (R43), completion (R44), the error completion (R242), which
is this machine's form of taking an exception, and reset (R271). -/

namespace Sys2Proof.Machine

/-! ## Byte strings and integers (R11, R12) -/

/-- `LE_k(v)`: the `k`-byte little-endian string of `v` (R12); bits above `8*k` are dropped. -/
def leBytes : Nat → Nat → List Byte
  | 0, _ => []
  | k + 1, v => BitVec.ofNat 8 v :: leBytes k (v / 256)

/-- `BE_k(v)`: the `k`-byte big-endian string of `v` (R12). -/
def beBytes (k v : Nat) : List Byte := (leBytes k v).reverse

/-- `le(s)`: the integer of a little-endian byte string (R12). -/
def leNat : List Byte → Nat
  | [] => 0
  | b :: bs => b.toNat + 256 * leNat bs

/-- `be(s)`: the integer of a big-endian byte string (R12). -/
def beNat (bs : List Byte) : Nat := leNat bs.reverse

/-- `0x00^k` (R12). -/
def zeroBytes (k : Nat) : List Byte := List.replicate k 0

/-- The first `count` blocks of `len` bytes of a byte string. -/
def cutBlocks (len : Nat) : Nat → List Byte → List (List Byte)
  | 0, _ => []
  | count + 1, bs => bs.take len :: cutBlocks len count (bs.drop len)

/-- The words of `len` bytes of a byte string, `count` of them, each read as an integer by `rd` (R135, R164). -/
def cutWords (rd : List Byte → Nat) (len count : Nat) (bs : List Byte) : List Nat := (cutBlocks len count bs).map rd

/-- `z mod m` of R11 for an integer `z` that may be negative and a positive `m`: the residue in `[0, m)`. -/
def residue (z : Int) (m : Nat) : Nat := (z % (m : Int)).toNat

/-! ## Byte memory -/

/-- What a byte that nothing has written since reset reads as. The spec gives it no value (R40); log entry 1. -/
def unlistedByte : Byte := 0

/-- The byte at an address. -/
def readByte : Memory → Nat → Byte
  | [], _ => unlistedByte
  | (a, b) :: m, x => if a = x then b else readByte m x

/-- Writing one byte, keeping the canonical form: a byte equal to what an unlisted address reads as is not listed. -/
def writeByte : Memory → Nat → Byte → Memory
  | [], x, v => if v = unlistedByte then [] else [(x, v)]
  | (a, b) :: m, x, v =>
    if x < a then (if v = unlistedByte then (a, b) :: m else (x, v) :: (a, b) :: m)
    else if x = a then (if v = unlistedByte then m else (x, v) :: m)
    else (a, b) :: writeByte m x v

/-- Every listed address is at least `lo`, addresses strictly rise, and no listed byte is what an unlisted one reads as. -/
def wfFrom : Nat → Memory → Bool
  | _, [] => true
  | lo, (a, b) :: m => lo ≤ a && b != unlistedByte && wfFrom (a + 1) m

/-- The canonical form of a byte memory. -/
def Memory.wf (m : Memory) : Bool := wfFrom 0 m

/-- Every listed address lies in `[lo, hi)`. -/
def withinRange (m : Memory) (lo hi : Nat) : Bool := m.all fun c => lo ≤ c.1 && c.1 < hi

/-- The `n` bytes from address `base` on. -/
def loadBytes (m : Memory) (base : Nat) : Nat → List Byte
  | 0 => []
  | n + 1 => readByte m base :: loadBytes m (base + 1) n

/-- Writing a byte string from address `base` on. -/
def storeBytes (m : Memory) (base : Nat) : List Byte → Memory
  | [] => m
  | b :: bs => storeBytes (writeByte m base b) (base + 1) bs

/-! ## The random source (R8) -/

/-- A number brought into `[lo, hi]`; a number already in that range is kept. -/
def intoRange (lo hi v : Nat) : Nat := if lo ≤ v ∧ v ≤ hi then v else lo + v % (hi - lo + 1)

/-- `draw(lo, hi)` (R13): the answer waiting at the input if there is one, else a free value (log entry 5). -/
def drawRnd (port : RndPort) (lo hi : Nat) : Nat × RndPort :=
  match port.waiting with
  | v :: rest => (intoRange lo hi v, { port with waiting := rest })
  | [] => (intoRange lo hi (Config.rndDraw port.freeDraws), { port with freeDraws := port.freeDraws + 1 })

/-! ## The life of a command -/

/-- What every meaning answers. -/
abbrev Result := Host.Outcome State Fault Refusal

/-- Acceptance of the command word `w` (R43). -/
def accept (w : Word) (s : State) : State :=
  { s with cmdreg := w, busy := true, done := false, err := .ok, res := 0 }

/-- The `STATUS` writes of a completion (R44). -/
def finish (e : ErrCode) (res : BitVec 2) (s : State) : State :=
  { s with err := e, res := res, busy := false, done := true }

/-- Completion without error, with result kind `res` (R44); `s` already holds the destinations' new values. -/
def complete (res : BitVec 2) (s : State) : Result := .next (finish .ok res s)

/-- `raise e` (R13): the command completes with error code `e` and changes nothing but `STATUS` (R242). This is the one
shared operation by which this machine takes an exception: there is no pc to save and no handler (R242, R245); `CMDREG`
keeps the offending word. The way back is the next acceptance, which clears `ERR` and `RES` (R245, `accept`). -/
def raiseError (e : ErrCode) (s : State) : Result := .next (finish e 0 s)

/-- The command word that the engine executes: there is no program counter, the word is the one in `CMDREG` (R22, R44). -/
def fetchCommand (s : State) : Word := s.cmdreg

/-- Hardware reset and soft reset, which have the same effect (R270, R271): the state of R40, a pending command abandoned.
What lies outside the block (the turns still to come, the random source, the bus data last read) is not the block's to
reset. -/
def resetBlock (s : State) : State :=
  { State.resetWith s.cfg with turns := s.turns, rnd := s.rnd, busyReads := s.busyReads, rdata := s.rdata }

end Sys2Proof.Machine
end

