-- ==== Sys2Proof/Machine/Flags.lean ====
section
/-! DEFINITION. Machine/Flags.lean: the control and status registers as words (R23 to R28), the flags in them (R29), and
the interrupt output (R41). The block has no arithmetic condition codes (R29). -/

namespace Sys2Proof.Machine

/-- The numbering of the error codes (R241). -/
def ErrCode.code : ErrCode → Nat
  | .ok => 0
  | .illegal => 1
  | .param => 2
  | .seq => 3
  | .modulus => 4
  | .noInverse => 5
  | .notOnCurve => 6

/-- A flag at its bit position. -/
def flagAt (b : Bool) (pos : Nat) : Word := placed b.toNat pos

/-- `ID`: ASCII "CRIP", `C` in bits 31:24 (R23). -/
def idWord : Word := 0x43524950

/-- `CONFIG`: `NW` in bits 7:0, `NR = 8` in bits 11:8, `NP = 4` in bits 15:12 (R24). -/
def configWord (c : Config) : Word := placed c.nw 0 ||| placed 8 8 ||| placed 4 12

/-- `STATUS` as the host reads it (R26). -/
def statusWord (s : State) : Word :=
  flagAt s.busy 0 ||| flagAt s.done 1 ||| placed s.err.code 4 ||| placed s.res.toNat 8 ||| flagAt s.hact 12
    ||| placed s.halg.code 16

/-- `CTRL` as the host reads it: `SRST` reads as 0 (R27). -/
def ctrlWord (s : State) : Word := flagAt s.ie 1

/-- `FAULT` as the host reads it (R28). -/
def faultWord (s : State) : Word := flagAt s.faultWbusy 0 ||| flagAt s.faultBadaddr 1

/-- A write to `STATUS`: only the write-1-to-clear of `DONE` (R26). -/
def writeStatus (v : Word) (s : State) : State := if v.getLsbD 1 then { s with done := false } else s

/-- A write to `FAULT`: `FAULT <- FAULT AND NOT v[1:0]` (R28, R73). -/
def writeFault (v : Word) (s : State) : State :=
  { s with faultWbusy := s.faultWbusy && !v.getLsbD 0, faultBadaddr := s.faultBadaddr && !v.getLsbD 1 }

/-- A write to `CTRL`: `IE <- v[1]`, then a soft reset if `v[0] = 1`, which wins (R27, R73). -/
def writeCtrl (v : Word) (s : State) : State :=
  let s' := { s with ie := v.getLsbD 1 }
  if v.getLsbD 0 then resetBlock s' else s'

/-- The write dropped because the block is busy (R46). -/
def noteBusyWrite (s : State) : State := { s with faultWbusy := true }

/-- The access to an offset that holds no register (R66). -/
def noteBadAddress (s : State) : State := { s with faultBadaddr := true }

/-- The interrupt output, a level: `irq = CTRL.IE AND STATUS.DONE` (R41, R246). -/
def irq (s : State) : Bool := s.ie && s.done

end Sys2Proof.Machine
end

