-- ==== Sys2Proof/Machine/Operands.lean ====
section
/-! DEFINITION. Machine/Operands.lean: the operand forms of the commands: operand registers (R21), point registers as
values of type Point (R37, R202), curve parameters (R36), the byte buffers (R30, R31, R32), the hash engines' chaining
state (R33, R34) and the HMAC latch (R35). -/

namespace Sys2Proof.Machine

/-! ## Operand registers -/

/-- `R[i]` (R13). -/
def readReg (s : State) (i : RegIdx) : Nat := s.r[i]

/-- `R[i] <- v` (R13); every rule that uses it supplies a `v` below `2^OPW` (R5). -/
def writeReg (i : RegIdx) (v : Nat) (s : State) : State := { s with r := s.r.set i v }

/-! ## Points -/

/-- A value of type Point (R14, R37, R200). -/
inductive Point where
  | inf
  | affine (x y : Nat)
deriving DecidableEq, Repr

/-- A point register read as a Point: `X` and `Y` are ignored when `INF = 1` (R13, R202). -/
def PointReg.value (p : PointReg) : Point := if p.inf then .inf else .affine p.x p.y

/-- What a point register holds after `PT[i] <- P` (R202): infinity also zeroes the coordinates. -/
def PointReg.ofPoint : Point → PointReg
  | .inf => ⟨0, 0, true⟩
  | .affine x y => ⟨x, y, false⟩

/-- `PT[i]` (R13, R202). -/
def readPoint (s : State) (i : PtIdx) : Point := s.pt[i].value

/-- `PT[i] <- P` (R202). -/
def writePoint (i : PtIdx) (p : Point) (s : State) : State := { s with pt := s.pt.set i (PointReg.ofPoint p) }

/-- The curve parameters that the group operations read: the modulus and the two coefficients (R200). -/
structure Curve where
  p : Nat
  a : Nat
  b : Nat
deriving DecidableEq, Repr

/-- The curve of `CP`, `CA`, `CB` (R200). -/
def curveOf (s : State) : Curve := ⟨s.cp, s.ca, s.cb⟩

/-! ## Byte buffers -/

/-- The window offset of `MSG[0]` (R61). -/
def msgBase : Nat := 0x100
/-- The window offset of `KEY[0]` (R61). -/
def keyBase : Nat := 0x180
/-- The window offset of `DIG[0]` (R61). -/
def digBase : Nat := 0x200
/-- The first offset after `DIG` (R61). -/
def bufEnd : Nat := 0x240

/-- `MSG[0..n-1]` (R30). -/
def msgBytes (s : State) (n : Nat) : List Byte := loadBytes s.mem msgBase n

/-- `KEY[0..n-1]` (R31). -/
def keyBytes (s : State) (n : Nat) : List Byte := loadBytes s.mem keyBase n

/-- `DIG[0..L-1] <- digest; DIG[L..63] <- 0x00^(64-L)`: all 64 bytes are written (R32). -/
def writeDigest (digest : List Byte) (s : State) : State :=
  { s with mem := storeBytes s.mem digBase (digest ++ zeroBytes (64 - digest.length)) }

/-! ## Chaining state -/

/-- The SHA-2 chaining value, `SH[0..7]` (R33). -/
abbrev ShaChain := Vector DWord 8

/-- The RIPEMD-160 chaining value, `RH[0..4]` (R34). -/
abbrev RmdChain := Vector Word 5

/-- Writing `SH` and `SLEN` (R33). -/
def writeSha (h : ShaChain) (len : DWord) (s : State) : State := { s with sh := h, slen := len }

/-- Writing `SMODE` (R33). -/
def writeShaMode (m : ShaMode) (s : State) : State := { s with smode := m }

/-- Writing `RH` and `RLEN` (R34). -/
def writeRmd (h : RmdChain) (len : DWord) (s : State) : State := { s with rh := h, rlen := len }

/-! ## HMAC controller state -/

/-- `HK0[0..B-1] <- K0; HK0[B..127] <- 0x00^(128-B); HALG <- alg; HACT <- 1` (R184). -/
def openHmac (alg : Alg) (k0 : List Byte) (s : State) : State :=
  { s with hk0 := storeBytes [] 0 k0, halg := alg, hact := true }

/-- `HK0[0..n-1]` (R186). -/
def latchedKey (s : State) (n : Nat) : List Byte := loadBytes s.hk0 0 n

/-- `HACT <- 0` (R187). -/
def closeHmac (s : State) : State := { s with hact := false }

/-- The random source after a command's draws (R8); no architectural state. -/
def writeRnd (port : RndPort) (s : State) : State := { s with rnd := port }

end Sys2Proof.Machine
end

