-- ==== Sys2Proof/Machine/Bus.lean ====
section
/-! DEFINITION. Machine/Bus.lean: the register window: the address map (R61), byte lanes and word order (R62), the access
rules (R66, R67), and the host access primitives `MemRead` and `MemWrite` (R73). -/

namespace Sys2Proof.Machine

/-- The curve-parameter registers in the order of their slots (R61). -/
inductive CurveReg where
  | cp | ca | cb | gx | gy | cn
deriving DecidableEq, Repr

/-- What a word of the window holds (R61). In `sh`, `slen` and `rlen`, `hi` tells bits 63:32 from bits 31:0. -/
inductive Loc where
  | id | config | cmd | status | ctrl | fault
  /-- The four bytes of `MSG` or `KEY` from a window offset on. -/
  | buffer (off : Nat)
  /-- The four bytes of `DIG` from a window offset on. -/
  | digest (off : Nat)
  | sh (i : Fin 8) (hi : Bool)
  | slen (hi : Bool)
  | smode
  | rh (i : Fin 5)
  | rlen (hi : Bool)
  | reg (k : RegIdx) (j : Nat)
  | curve (c : CurveReg) (j : Nat)
  | ptX (i : PtIdx) (j : Nat)
  | ptY (i : PtIdx) (j : Nat)
  | ptInf (i : PtIdx)
deriving DecidableEq, Repr

/-- The byte offset of a word index (R60). -/
def byteOffset (idx : WordIdx) : Nat := 4 * idx.toNat

/-- Offsets `0x0000` to `0x00FF`: the control registers (R61). -/
def locateControl (off : Nat) : Option Loc :=
  if off = 0x00 then some .id
  else if off = 0x04 then some .config
  else if off = 0x08 then some .cmd
  else if off = 0x0C then some .status
  else if off = 0x10 then some .ctrl
  else if off = 0x14 then some .fault
  else none

/-- Offsets `0x0240` to `0x02FF`: the hash engines' state (R61). -/
def locateHash (off : Nat) : Option Loc :=
  if off < 0x280 then some (.sh (Fin.ofNat 8 ((off - 0x240) / 8)) ((off - 0x240) / 4 % 2 = 1))
  else if off = 0x280 then some (.slen false)
  else if off = 0x284 then some (.slen true)
  else if off = 0x288 then some .smode
  else if 0x2A0 ≤ off ∧ off < 0x2B4 then some (.rh (Fin.ofNat 5 ((off - 0x2A0) / 4)))
  else if off = 0x2B8 then some (.rlen false)
  else if off = 0x2BC then some (.rlen true)
  else none

/-- The curve register of slot `k` (R61). -/
def curveRegOf : Nat → Option CurveReg
  | 0 => some .cp
  | 1 => some .ca
  | 2 => some .cb
  | 3 => some .gx
  | 4 => some .gy
  | 5 => some .cn
  | _ => none

/-- Offsets `0x1000` to `0x3FFC`: slots of `0x100` bytes, in which word `j < NW` is a word of the register and the rest
holds none (R61, R66). -/
def locateWide (nw off : Nat) : Option Loc :=
  let slot := off / 0x100 % 0x10
  let j := off % 0x100 / 4
  if off < 0x2000 then
    if slot < 8 ∧ j < nw then some (.reg (Fin.ofNat 8 slot) j) else none
  else if off < 0x3000 then
    if j < nw then (curveRegOf slot).map (.curve · j) else none
  else
    let i : PtIdx := Fin.ofNat 4 (slot / 4)
    match slot % 4 with
    | 0 => if j < nw then some (.ptX i j) else none
    | 1 => if j < nw then some (.ptY i j) else none
    | 2 => if j = 0 then some (.ptInf i) else none
    | _ => none

/-- The address map (R61): what the word at byte offset `off` holds, `none` where no register is (R66). -/
def locate (c : Config) (off : Nat) : Option Loc :=
  if off < 0x100 then locateControl off
  else if off < 0x200 then some (.buffer off)
  else if off < 0x240 then some (.digest off)
  else if off < 0x300 then locateHash off
  else if off < 0x1000 then none
  else locateWide c.nw off

/-! ## Words of wider things (R62) -/

/-- Bits `32j+31 : 32j` of a wide integer. -/
def wordOf (v j : Nat) : Word := BitVec.ofNat 32 (v / 2 ^ (32 * j))

/-- A wide integer with its bits `32j+31 : 32j` replaced. -/
def setWordOf (v j : Nat) (w : Word) : Nat :=
  v % 2 ^ (32 * j) + 2 ^ (32 * j) * (w.toNat + 2 ^ 32 * (v / 2 ^ (32 * (j + 1))))

/-- Bits 63:32 or bits 31:0 of a 64-bit register. -/
def halfOf (v : DWord) (hi : Bool) : Word := v.extractLsb' (if hi then 32 else 0) 32

/-- A 64-bit register with one half replaced. -/
def setHalfOf (v : DWord) (hi : Bool) (w : Word) : DWord :=
  if hi then w ++ v.extractLsb' 0 32 else v.extractLsb' 32 32 ++ w

/-- A curve-parameter register (R36). -/
def readCurveReg (s : State) : CurveReg → Nat
  | .cp => s.cp
  | .ca => s.ca
  | .cb => s.cb
  | .gx => s.gx
  | .gy => s.gy
  | .cn => s.cn

/-- Writing a curve-parameter register (R36). -/
def writeCurveReg (c : CurveReg) (v : Nat) (s : State) : State :=
  match c with
  | .cp => { s with cp := v }
  | .ca => { s with ca := v }
  | .cb => { s with cb := v }
  | .gx => { s with gx := v }
  | .gy => { s with gy := v }
  | .cn => { s with cn := v }

/-- Writing the raw parts of a point register, as the host does (R37). -/
def writePointReg (i : PtIdx) (p : PointReg) (s : State) : State := { s with pt := s.pt.set i p }

/-- The 32 bits that R61 and R62 place at a location. -/
def readLoc (s : State) : Loc → Word
  | .id => idWord
  | .config => configWord s.cfg
  | .cmd => s.cmdreg
  | .status => statusWord s
  | .ctrl => ctrlWord s
  | .fault => faultWord s
  | .buffer off => BitVec.ofNat 32 (leNat (loadBytes s.mem off 4))
  | .digest off => BitVec.ofNat 32 (leNat (loadBytes s.mem off 4))
  | .sh i hi => halfOf s.sh[i] hi
  | .slen hi => halfOf s.slen hi
  | .smode => BitVec.ofNat 32 s.smode.code
  | .rh i => s.rh[i]
  | .rlen hi => halfOf s.rlen hi
  | .reg k j => wordOf (readReg s k) j
  | .curve c j => wordOf (readCurveReg s c) j
  | .ptX i j => wordOf s.pt[i].x j
  | .ptY i j => wordOf s.pt[i].y j
  | .ptInf i => BitVec.ofNat 32 s.pt[i].inf.toNat

/-- A host write to a location while the block is idle: `CMD` accepts a command (R43), `STATUS` and `FAULT` clear bits,
`ID`, `CONFIG` and `DIG` drop the write (R67), the rest store (R65, R73). -/
def writeLoc (v : Word) (s : State) : Loc → State
  | .id => s
  | .config => s
  | .cmd => accept v s
  | .status => writeStatus v s
  | .ctrl => writeCtrl v s
  | .fault => writeFault v s
  | .buffer off => { s with mem := storeBytes s.mem off (leBytes 4 v.toNat) }
  | .digest _ => s
  | .sh i hi => { s with sh := s.sh.set i (setHalfOf s.sh[i] hi v) }
  | .slen hi => { s with slen := setHalfOf s.slen hi v }
  | .smode => writeShaMode (.ofCode v.toNat) s
  | .rh i => { s with rh := s.rh.set i v }
  | .rlen hi => { s with rlen := setHalfOf s.rlen hi v }
  | .reg k j => writeReg k (setWordOf (readReg s k) j v) s
  | .curve c j => writeCurveReg c (setWordOf (readCurveReg s c) j v) s
  | .ptX i j => writePointReg i { s.pt[i] with x := setWordOf s.pt[i].x j v } s
  | .ptY i j => writePointReg i { s.pt[i] with y := setWordOf s.pt[i].y j v } s
  | .ptInf i => writePointReg i { s.pt[i] with inf := v.getLsbD 0 } s

/-- The registers whose reads return their values while the block is busy (R46). -/
def Loc.isControl : Loc → Bool
  | .id | .config | .cmd | .status | .ctrl | .fault => true
  | .buffer _ | .digest _ | .sh .. | .slen _ | .smode | .rh _ | .rlen _ | .reg .. | .curve .. | .ptX .. | .ptY ..
  | .ptInf _ => false

/-- `MemRead(off, 4)` (R73): the value, and the state after. A read of a data register or buffer while busy gives a free
value (R46; log entry 11). -/
def memRead (idx : WordIdx) (s : State) : Word × State :=
  match locate s.cfg (byteOffset idx) with
  | none => (0, noteBadAddress s)
  | some loc =>
    if s.busy && !loc.isControl then (Config.busyRead s.busyReads, { s with busyReads := s.busyReads + 1 })
    else (readLoc s loc, s)

/-- `MemWrite(off, 4, v)` (R73). The test for an offset that holds no register comes first, also while busy
(log entry 20). -/
def memWrite (idx : WordIdx) (v : Word) (s : State) : State :=
  match locate s.cfg (byteOffset idx) with
  | none => noteBadAddress s
  | some .ctrl => writeCtrl v s
  | some loc => if s.busy then noteBusyWrite s else writeLoc v s loc

/-- A host read as a turn: the value goes out on the bus (R41, R73). -/
def hostRead (idx : WordIdx) (s : State) : State :=
  let (v, s') := memRead idx s
  { s' with rdata := v }

end Sys2Proof.Machine
end

