-- ==== Sys2Proof/Machine/ModArith.lean ====
section
/-! DEFINITION. Machine/ModArith.lean: the modular-arithmetic unit (40_modarith.md): the pure functions `Egcd`,
`ModInverse`, `PowMod`, `IsProbablePrime`, `SqrtMod`, then the meanings of `GCD`, `EGCD`, `MODINV` and `SQRTMOD`.

Loops that the rules write with `while` or `repeat` are structural recursions on a bound that the loop cannot exceed
(log entry 16). -/

namespace Sys2Proof.Machine

/-! ## Extended Euclid (R101) -/

/-- The triple that `Egcd` returns: the greatest common divisor and the Bezout coefficients. -/
structure Bezout where
  g : Nat
  s : Int
  t : Int
deriving DecidableEq, Repr

/-- The loop of `Egcd` (R101), at most as many rounds as its first argument says. -/
def egcdLoop : Nat → Nat → Nat → Int → Int → Int → Int → Bezout
  | 0, r0, _, s0, _, t0, _ => ⟨r0, s0, t0⟩
  | n + 1, r0, r1, s0, s1, t0, t1 =>
    if r1 = 0 then ⟨r0, s0, t0⟩
    else
      let q := r0 / r1
      egcdLoop n r1 (r0 % r1) s1 (s0 - q * s1) t1 (t0 - q * t1)

/-- `Egcd(x, y)` (R101). `r1` starts at `y` and falls below itself in every round, so `y` rounds are enough. -/
def egcd (x y : Nat) : Bezout := egcdLoop (y + 1) x y 1 0 0 1

/-- `ModInverse(x, n)` for `n >= 1`; `none` is `NoInverse` (R105). -/
def modInverse (x n : Nat) : Option Nat :=
  let e := egcd (x % n) n
  if e.g = 1 then some (residue e.s n) else none

/-! ## Modular exponentiation (R107) -/

/-- Square-and-multiply from the low bit of the exponent up: `acc * b^e mod m`. -/
def powLoop (m : Nat) : Nat → Nat → Nat → Nat → Nat
  | 0, _, _, acc => acc
  | n + 1, b, e, acc =>
    if e = 0 then acc
    else powLoop m n (b * b % m) (e / 2) (if e % 2 = 1 then acc * b % m else acc)

/-- `PowMod(a, e, m) = a^e mod m`, with `PowMod(a, 0, m) = 1 mod m` (R107). The exponent is halved in every round. -/
def powMod (a e m : Nat) : Nat := powLoop m e (a % m) e (1 % m)

/-! ## Primality (R7, R108) -/

/-- No divisor `d' >= d` with `d' * d' <= p`, looking at no more than the given number of candidates. -/
def noDivisorFrom (p : Nat) : Nat → Nat → Bool
  | 0, _ => true
  | n + 1, d => if p < d * d then true else if p % d = 0 then false else noDivisorFrom p n (d + 1)

/-- Primality by trial division. -/
def trialPrime (p : Nat) : Bool := 2 ≤ p && noDivisorFrom p p 2

/-- `PRIMETAB` of a configuration, ascending (R7). -/
def primeTable (c : Config) : List Nat := (List.range (max 3 c.primeMax + 1)).filter trialPrime

/-- The trial divisions of `IsProbablePrime` by the table, ascending (R108): a verdict, or none. -/
def tableVerdict (p : Nat) : List Nat → Option Bool
  | [] => none
  | q :: qs => if p = q then some true else if p % q = 0 then some false else tableVerdict p qs

/-- `n = d * 2^s` with `d` odd, for `n > 0`, as the pair `(d, s)` (R108, R110). -/
def splitTwos : Nat → Nat → Nat × Nat
  | 0, n => (n, 0)
  | k + 1, n =>
    if n % 2 = 0 then
      let half := splitTwos k (n / 2)
      (half.1, half.2 + 1)
    else (n, 0)

/-- `d` and `s` of `p - 1 = d * 2^s` (R108, R110). -/
def oddPart (p : Nat) : Nat × Nat := splitTwos (p - 1) (p - 1)

/-- The inner loop of a Miller-Rabin round: some of the next `k` squares of `x` is `p - 1` (R108). -/
def squaresReach (p : Nat) : Nat → Nat → Bool
  | 0, _ => false
  | k + 1, x => if x * x % p = p - 1 then true else squaresReach p k (x * x % p)

/-- One Miller-Rabin round with witness `a` passes (R108). -/
def roundPasses (p a : Nat) : Bool :=
  let x := powMod a (oddPart p).1 p
  x = 1 || x = p - 1 || squaresReach p ((oddPart p).2 - 1) x

/-- The Miller-Rabin rounds with drawn witnesses (R108). -/
def millerRabin (p : Nat) : Nat → RndPort → Bool × RndPort
  | 0, port => (true, port)
  | k + 1, port =>
    let drawn := drawRnd port 2 (p - 2)
    if roundPasses p drawn.1 then millerRabin p k drawn.2 else (false, drawn.2)

/-- `IsProbablePrime(p, rounds)` for an odd `p >= 3`, with the table and the random source (R108). -/
def isProbablePrime (table : List Nat) (p rounds : Nat) (port : RndPort) : Bool × RndPort :=
  match tableVerdict p table with
  | some verdict => (verdict, port)
  | none => millerRabin p rounds port

/-! ## Which accepted moduli are prime (R111) -/

/-- A witness that `p` is prime by Lucas' converse of Fermat's theorem: a base of order `p - 1` modulo `p`, and the prime
factors of `p - 1`, each as often as it divides it. -/
structure PrimeCert where
  p : Nat
  base : Nat
  factors : List Nat
deriving DecidableEq, Repr

/-- Below this number primality is decided by trial division alone. -/
def exactPrimeLimit : Nat := 2 ^ 20

/-- The witness holds, when every factor at or above `exactPrimeLimit` is among the primes already `known`. -/
def PrimeCert.holds (known : List Nat) (c : PrimeCert) : Bool :=
  2 ≤ c.p && c.factors.prod = c.p - 1 && powMod c.base (c.p - 1) c.p = 1 &&
    c.factors.all fun q => powMod c.base ((c.p - 1) / q) c.p != 1 &&
      (if q < exactPrimeLimit then trialPrime q else known.elem q)

/-- The primes that a list of witnesses shows, each resting on those before it. -/
def certifiedBy : List PrimeCert → List Nat → List Nat
  | [], known => known
  | c :: cs, known => certifiedBy cs (if c.holds known then c.p :: known else known)

/-- The witnesses that show the field prime of secp256k1, with which the spec works (95_test_vectors.md section 2.2). They
only make the decision fast for this number: a witness that did not hold would show nothing. -/
def curveCerts : List PrimeCert :=
  [ ⟨1206781, 10, [2, 2, 3, 5, 20113]⟩,
    ⟨7240687, 3, [2, 3, 1206781]⟩,
    ⟨107590001, 3, [2, 2, 2, 2, 5, 5, 5, 5, 7, 29, 53]⟩,
    ⟨255515944373312847190720520512484175977, 3,
      [2, 2, 2, 7, 7, 11, 1627, 2657, 4423, 41201, 96557, 7240687, 107590001]⟩,
    ⟨13331831, 13, [2, 5, 971, 1373]⟩,
    ⟨173378833005251801, 6, [2, 2, 2, 5, 5, 2621, 24809, 13331831]⟩,
    ⟨22149492674086928081353, 5, [2, 2, 2, 3, 5323, 173378833005251801]⟩,
    ⟨132896956044521568488119, 6, [2, 3, 22149492674086928081353]⟩,
    ⟨205115282021455665897114700593932402728804164701536103180137503955397371, 10,
      [2, 3, 5, 29, 29, 31, 7723, 132896956044521568488119, 255515944373312847190720520512484175977]⟩,
    ⟨115792089237316195423570985008687907853269984665640564039457584007908834671663, 3,
      [2, 3, 7, 13441, 205115282021455665897114700593932402728804164701536103180137503955397371]⟩ ]

/-- `p` is among the numbers that the witnesses show prime. -/
def certified (p : Nat) : Bool := (curveCerts.any fun c => c.p = p) && (certifiedBy curveCerts []).elem p

/-- The bases of a Miller-Rabin screen, which no prime above them fails: it finds most composites at once. -/
def screenBases : List Nat := [2, 3, 5, 7, 11, 13, 17, 19, 23, 29, 31, 37]

/-- `p` is prime, decided exactly for every `p`: small numbers by trial division; the others are refused when a round of the
screen fails, taken when a witness shows them prime, and decided by trial division when neither is so. Used only to tell the
case of R111 apart; log entry 7. -/
def takenForPrime (p : Nat) : Bool :=
  if p < exactPrimeLimit then trialPrime p
  else (screenBases.all fun a => roundPasses p a) && (certified p || trialPrime p)

/-! ## Modular square root (R109, R110) -/

/-- `z` is a non-residue modulo `p` by the Euler criterion (R107, R110). -/
def isNonResidue (p z : Nat) : Bool := powMod z ((p - 1) / 2) p = p - 1

/-- The least non-residue from `z` on, looking at no more than the given number of candidates. -/
def leastNonResidue (p : Nat) : Nat → Nat → Nat
  | 0, z => z
  | n + 1, z => if isNonResidue p z then z else leastNonResidue p n (z + 1)

/-- `repeat z <- draw(2, p - 1) until z is a non-residue` (R110), over the answers waiting at the input. Where they hold
none, the draws that follow end, by the fairness assumption of R45, with some non-residue; which one does not matter to the
result (R109, R110), and the model goes on with the least (log entry 6). -/
def drawNonResidue (p : Nat) : List Nat → Nat → Nat × RndPort
  | [], freeDraws => (leastNonResidue p p 2, ⟨[], freeDraws + 1⟩)
  | v :: rest, freeDraws =>
    if isNonResidue p (intoRange 2 (p - 1) v) then (intoRange 2 (p - 1) v, ⟨rest, freeDraws⟩)
    else drawNonResidue p rest freeDraws

/-- The least `i` with `0 < i < m` and `t^(2^i) mod p = 1` (R110): `k` candidates are left, `i` is the next one, and `x` is
`t^(2^i) mod p`. -/
def leastOrder (p : Nat) : Nat → Nat → Nat → Option Nat
  | 0, _, _ => none
  | k + 1, i, x => if x = 1 then some i else leastOrder p k (i + 1) (x * x % p)

/-- The `while` loop of `TonelliShanks` (R110); `none` when it finds no `i`, which no prime modulus brings about. `m` falls
in every round, so a bound of the first `m` rounds is enough. -/
def shanksLoop (p : Nat) : Nat → Nat → Nat → Nat → Nat → Option Nat
  | 0, _, _, t, r => if t = 1 then some r else none
  | n + 1, m, c, t, r =>
    if t = 1 then some r
    else
      match leastOrder p (m - 1) 1 (t * t % p) with
      | none => none
      | some i =>
        let b := powMod c (2 ^ (m - i - 1)) p
        shanksLoop p n i (b * b % p) (t * (b * b % p) % p) (r * b % p)

/-- `TonelliShanks(a, p)` from the non-residue `z` (R110). -/
def tonelliShanks (a p z : Nat) : Option Nat :=
  let q := (oddPart p).1
  let s := (oddPart p).2
  shanksLoop p s s (powMod z q p) (powMod a q p) (powMod a ((q + 1) / 2) p)

/-- The possible results of `SqrtMod` (R109), with the unspecified case of R111. -/
inductive SqrtResult where
  | badModulus
  | noRoot
  | zeroRoot
  | twoRoots (r1 r2 : Nat)
  | unspecified
deriving DecidableEq, Repr

/-- The part of `SqrtMod` after the modulus has been found prime (R109). -/
def sqrtModPrime (n p : Nat) (port : RndPort) : SqrtResult × RndPort :=
  let a := n % p
  if a = 0 then (.zeroRoot, port)
  else if powMod a ((p - 1) / 2) p = p - 1 then (.noRoot, port)
  else
    let drawn := drawNonResidue p port.waiting port.freeDraws
    match tonelliShanks a p drawn.1 with
    | some r => (.twoRoots (min r (p - r)) (max r (p - r)), drawn.2)
    | none => (.unspecified, drawn.2)

/-- `SqrtMod(n, p, rounds)` (R109); a modulus that the test accepts although it is composite is the case of R111. -/
def sqrtMod (table : List Nat) (n p rounds : Nat) (port : RndPort) : SqrtResult × RndPort :=
  if p < 3 ∨ p % 2 = 0 then (.badModulus, port)
  else
    match isProbablePrime table p rounds port with
    | (false, port') => (.badModulus, port')
    | (true, port') => if takenForPrime p then sqrtModPrime n p port' else (.unspecified, port')

/-! ## Commands -/

/-- `GCD rd, ra, rb` (R103). -/
def execGcd (rd ra rb : RegIdx) (s : State) : Result :=
  complete 0 (writeReg rd (egcd (readReg s ra) (readReg s rb)).g s)

/-- `EGCD rd, rc, re, ra, rb` (R104). Coinciding destinations are an illegal word (R85). -/
def execEgcd (rd rc re ra rb : RegIdx) (s : State) : Result :=
  if (Instr.egcd rd rc re ra rb).wellFormed then
    let e := egcd (readReg s ra) (readReg s rb)
    complete 0 (writeReg re (residue e.t (2 ^ s.cfg.opw)) (writeReg rc (residue e.s (2 ^ s.cfg.opw)) (writeReg rd e.g s)))
  else raiseError .illegal s

/-- `MODINV rd, ra, rb` (R106). -/
def execModinv (rd ra rb : RegIdx) (s : State) : Result :=
  if readReg s rb = 0 then raiseError .modulus s
  else
    match modInverse (readReg s ra) (readReg s rb) with
    | none => raiseError .noInverse s
    | some y => complete 0 (writeReg rd y s)

/-- `SQRTMOD rd, rc, ra, rb, rounds` (R112). Coinciding destinations are an illegal word (R85). In the unspecified case of
R111 it faults, as that rule says a model should. -/
def execSqrtmod (rd rc ra rb : RegIdx) (rounds : BitVec 8) (s : State) : Result :=
  if (Instr.sqrtmod rd rc ra rb rounds).wellFormed then
    match sqrtMod (primeTable s.cfg) (readReg s ra) (readReg s rb) rounds.toNat s.rnd with
    | (.badModulus, port) => raiseError .modulus (writeRnd port s)
    | (.noRoot, port) => complete 0 (writeRnd port s)
    | (.zeroRoot, port) => complete 1 (writeReg rd 0 (writeRnd port s))
    | (.twoRoots r1 r2, port) => complete 2 (writeReg rc r2 (writeReg rd r1 (writeRnd port s)))
    | (.unspecified, _) => .fault .sqrtModCompositeModulus
  else raiseError .illegal s

end Sys2Proof.Machine
end

