-- ==== Sys2Proof/Machine/Ec.lean ====
section
/-! DEFINITION. Machine/Ec.lean: the elliptic-curve unit (44_ec.md): the point functions `IsOnCurve`, `EcDouble`, `EcAdd`,
`EcNegate`, `EcMul`, and the meanings of the six commands. -/

namespace Sys2Proof.Machine

/-- How a point operation fails (R204, R205). -/
inductive EcError where
  | notOnCurve
  | noInverse
deriving DecidableEq, Repr

/-- The error code of a failure (44_ec.md section 3). -/
def EcError.errCode : EcError → ErrCode
  | .notOnCurve => .notOnCurve
  | .noInverse => .noInverse

/-- `IsOnCurve(P)` (R203). -/
def isOnCurve (c : Curve) : Point → Bool
  | .inf => true
  | .affine x y => x < c.p && y < c.p && y * y % c.p = (x * x * x + c.a * x + c.b) % c.p

/-- The third point of a line with slope `lam` through `(x1, y1)` and a point with abscissa `x2`, negated: the last two
lines of the chord and of the tangent rule (R204, R205). -/
def thirdPoint (p : Nat) (lam : Nat) (x1 y1 x2 : Nat) : Point :=
  let x3 := residue ((lam : Int) * lam - x1 - x2) p
  .affine x3 (residue ((lam : Int) * ((x1 : Int) - x3) - y1) p)

/-- `EcDouble(P)` (R204). -/
def ecDouble (c : Curve) (pt : Point) : Except EcError Point :=
  if isOnCurve c pt then
    match pt with
    | .inf => .ok .inf
    | .affine x y =>
      if y = 0 then .ok .inf
      else
        match modInverse (2 * y % c.p) c.p with
        | none => .error .noInverse
        | some i => .ok (thirdPoint c.p ((3 * x * x + c.a) * i % c.p) x y x)
  else .error .notOnCurve

/-- `EcAdd(P, Q)` (R205). -/
def ecAdd (c : Curve) (pt qt : Point) : Except EcError Point :=
  if isOnCurve c pt && isOnCurve c qt then
    match pt, qt with
    | .inf, q => .ok q
    | .affine x1 y1, .inf => .ok (.affine x1 y1)
    | .affine x1 y1, .affine x2 y2 =>
      if x1 = x2 then
        if y1 = y2 then ecDouble c (.affine x1 y1) else .ok .inf
      else
        match modInverse (residue ((x2 : Int) - x1) c.p) c.p with
        | none => .error .noInverse
        | some i => .ok (thirdPoint c.p (residue (((y2 : Int) - y1) * i) c.p) x1 y1 x2)
  else .error .notOnCurve

/-- `EcNegate(P)` (R206). -/
def ecNegate (c : Curve) : Point → Point
  | .inf => .inf
  | .affine x y => .affine x (residue (-(y : Int)) c.p)

/-- The bits of a number from the lowest up, without leading zeros: `bitlen(k)` of them (R207). -/
def lowBits : Nat → Nat → List Bool
  | 0, _ => []
  | n + 1, k => if k = 0 then [] else (k % 2 = 1) :: lowBits n (k / 2)

/-- The loop of `EcMul` over the bits that remain, most significant first (R207); the first failing step decides. -/
def mulLoop (c : Curve) (pt : Point) : List Bool → Point → Except EcError Point
  | [], acc => .ok acc
  | bit :: bits, acc =>
    match ecDouble c acc with
    | .error e => .error e
    | .ok twice =>
      if bit then
        match ecAdd c twice pt with
        | .error e => .error e
        | .ok sum => mulLoop c pt bits sum
      else mulLoop c pt bits twice

/-- `EcMul(k, P)` (R207): the scalar is reduced modulo `p`, not modulo the group order. -/
def ecMul (c : Curve) (k : Nat) (pt : Point) : Except EcError Point :=
  if isOnCurve c pt then mulLoop c pt (lowBits (k % c.p) (k % c.p)).reverse .inf else .error .notOnCurve

/-- The modulus check that every command but `EC_LDG` begins with (R201). -/
def withModulus (s : State) (go : Result) : Result := if s.cp = 0 then raiseError .modulus s else go

/-- Completion with a point result: the failure's error code, or the point written to `PT[pd]` (R210 to R212). -/
def completePoint (pd : PtIdx) (r : Except EcError Point) (s : State) : Result :=
  match r with
  | .error e => raiseError e.errCode s
  | .ok p => complete 0 (writePoint pd p s)

/-- `EC_ONCURVE pa` (R209). -/
def execEcOncurve (pa : PtIdx) (s : State) : Result :=
  withModulus s (complete (if isOnCurve (curveOf s) (readPoint s pa) then 1 else 0) s)

/-- `EC_ADD pd, pa, pb` (R210). -/
def execEcAdd (pd pa pb : PtIdx) (s : State) : Result :=
  withModulus s (completePoint pd (ecAdd (curveOf s) (readPoint s pa) (readPoint s pb)) s)

/-- `EC_DBL pd, pa` (R211). -/
def execEcDbl (pd pa : PtIdx) (s : State) : Result :=
  withModulus s (completePoint pd (ecDouble (curveOf s) (readPoint s pa)) s)

/-- `EC_MUL pd, pa, rk` (R212). -/
def execEcMul (pd pa : PtIdx) (rk : RegIdx) (s : State) : Result :=
  withModulus s (completePoint pd (ecMul (curveOf s) (readReg s rk) (readPoint s pa)) s)

/-- `EC_NEG pd, pa` (R213). -/
def execEcNeg (pd pa : PtIdx) (s : State) : Result :=
  withModulus s (complete 0 (writePoint pd (ecNegate (curveOf s) (readPoint s pa)) s))

/-- `EC_LDG pd` (R214). -/
def execEcLdg (pd : PtIdx) (s : State) : Result := complete 0 (writePoint pd (.affine s.gx s.gy) s)

end Sys2Proof.Machine
end

