-- ==== Sys2Proof/Machine/Hash.lean ====
section
/-! DEFINITION. Machine/Hash.lean: what the two hash engines and the HMAC controller share: a hash as the parts that R181
names, the padding of R137 and R165, the whole-message function of R139 and R167, and `BlockKey` (R183) and `Hmac` (R182)
over any hash. -/

namespace Sys2Proof.Machine

/-- The parts of a hash with chaining values of type `α` (R181): `IVof`, `Compress`, `Pad`, `Digest`, the block size `B`
and the digest length `L` (R180). -/
structure HashFn (α : Type) where
  iv : α
  compress : α → List Byte → α
  pad : List Byte → Nat → List (List Byte)
  digest : α → List Byte
  blockLen : Nat
  digestLen : Nat

/-- The padding of R137 and R165 for block size `len` and a length field of `lf` bytes written by `field`: the tail, the byte
`0x80`, zeros, the bit length modulo `2^(8*lf)`, cut into one or two blocks. -/
def padBlocks (len lf : Nat) (field : Nat → Nat → List Byte) (tail : List Byte) (total : Nat) : List (List Byte) :=
  let zeros := residue ((len : Int) - lf - (tail.length + 1)) len
  let bits := 8 * total % 2 ^ (8 * lf)
  let padded := tail ++ 0x80 :: zeroBytes zeros ++ field lf bits
  cutBlocks len (padded.length / len) padded

/-- Compressing several blocks one after the other. -/
def HashFn.absorb {α : Type} (f : HashFn α) (h : α) (blocks : List (List Byte)) : α := blocks.foldl f.compress h

/-- The chaining value after the padded tail of a message of `total` bytes (R142, R170, R186). -/
def HashFn.close {α : Type} (f : HashFn α) (h : α) (tail : List Byte) (total : Nat) : α := f.absorb h (f.pad tail total)

/-- The whole-message function (R139, R167, R181). -/
def HashFn.hash {α : Type} (f : HashFn α) (msg : List Byte) : List Byte :=
  let k := msg.length / f.blockLen
  let h := f.absorb f.iv (cutBlocks f.blockLen k msg)
  f.digest (f.close h (msg.drop (f.blockLen * k)) msg.length)

/-- `BlockKey(alg, key)` (R183): a key longer than a block is hashed, then the key is zero-padded to a block. -/
def HashFn.blockKey {α : Type} (f : HashFn α) (key : List Byte) : List Byte :=
  let short := if f.blockLen < key.length then f.hash key else key
  short ++ zeroBytes (f.blockLen - short.length)

/-- A byte string with every byte exclusive-or'ed with `pad` (R182). -/
def xorBytes (pad : Byte) (bs : List Byte) : List Byte := bs.map fun b => b ^^^ pad

/-- The inner pad byte (R182). -/
def ipad : Byte := 0x36

/-- The outer pad byte (R182). -/
def opad : Byte := 0x5c

/-- The chaining value after the one block `K0 XOR pad^B` (R184, R186). -/
def HashFn.keyed {α : Type} (f : HashFn α) (pad : Byte) (k0 : List Byte) : α := f.compress f.iv (xorBytes pad k0)

/-- The outer hash of `Hmac` over an inner digest: the chaining value after it (R186). -/
def HashFn.outer {α : Type} (f : HashFn α) (k0 inner : List Byte) : α :=
  f.close (f.keyed opad k0) inner (f.blockLen + f.digestLen)

/-- `Hmac(alg, key, msg)` (R182), the function the two HMAC commands compute piece by piece. -/
def HashFn.hmac {α : Type} (f : HashFn α) (key msg : List Byte) : List Byte :=
  let k0 := f.blockKey key
  f.hash (xorBytes opad k0 ++ f.hash (xorBytes ipad k0 ++ msg))

end Sys2Proof.Machine
end

