-- ==== Sys2Proof/Machine/Ripemd160.lean ====
section
/-! DEFINITION. Machine/Ripemd160.lean: the RIPEMD-160 engine (42_ripemd160.md): constants (R161, R162), compression (R163,
R164), padding and digest (R165, R166), and the meanings of `RMD_INIT`, `RMD_BLOCK` and `RMD_FINAL`. -/

namespace Sys2Proof.Machine

/-! ## Constants -/

/-- The initial value `RIV` (R161). -/
def rmdIv : RmdChain := #v[0x67452301, 0xefcdab89, 0x98badcfe, 0x10325476, 0xc3d2e1f0]

/-- The added constants `KL` of the left line, one for each group of sixteen steps (R161). -/
def rmdKl : List Word := [0x00000000, 0x5a827999, 0x6ed9eba1, 0x8f1bbcdc, 0xa953fd4e]

/-- The added constants `KR` of the right line (R161). -/
def rmdKr : List Word := [0x50a28be6, 0x5c4dd124, 0x6d703ef3, 0x7a6d76e9, 0x00000000]

/-- Message-word selection `RL` of the left line (R162). -/
def rmdRl : List Nat :=
    [0, 1, 2, 3, 4, 5, 6, 7, 8, 9, 10, 11, 12, 13, 14, 15] ++
    [7, 4, 13, 1, 10, 6, 15, 3, 12, 0, 9, 5, 2, 14, 11, 8] ++
    [3, 10, 14, 4, 9, 15, 8, 1, 2, 7, 0, 6, 13, 11, 5, 12] ++
    [1, 9, 11, 10, 0, 8, 12, 4, 13, 3, 7, 15, 14, 5, 6, 2] ++
    [4, 0, 5, 9, 7, 12, 2, 10, 14, 1, 3, 8, 11, 6, 15, 13]

/-- Message-word selection `RR` of the right line (R162). -/
def rmdRr : List Nat :=
    [5, 14, 7, 0, 9, 2, 11, 4, 13, 6, 15, 8, 1, 10, 3, 12] ++
    [6, 11, 3, 7, 0, 13, 5, 10, 14, 15, 8, 12, 4, 9, 1, 2] ++
    [15, 5, 1, 3, 7, 14, 6, 9, 11, 8, 12, 2, 10, 0, 4, 13] ++
    [8, 6, 4, 1, 3, 11, 15, 0, 5, 12, 2, 13, 9, 7, 10, 14] ++
    [12, 15, 10, 4, 1, 5, 8, 7, 6, 2, 13, 14, 0, 3, 9, 11]

/-- Left-rotation amounts `SL` of the left line (R162). -/
def rmdSl : List Nat :=
    [11, 14, 15, 12, 5, 8, 7, 9, 11, 13, 14, 15, 6, 7, 9, 8] ++
    [7, 6, 8, 13, 11, 9, 7, 15, 7, 12, 15, 9, 11, 7, 13, 12] ++
    [11, 13, 6, 7, 14, 9, 13, 15, 14, 8, 13, 6, 5, 12, 7, 5] ++
    [11, 12, 14, 15, 14, 15, 9, 8, 9, 14, 5, 6, 8, 6, 5, 12] ++
    [9, 15, 5, 11, 6, 8, 13, 12, 5, 12, 13, 14, 11, 8, 5, 6]

/-- Left-rotation amounts `SR` of the right line (R162). -/
def rmdSr : List Nat :=
    [8, 9, 9, 11, 13, 15, 15, 5, 7, 7, 8, 11, 14, 14, 12, 6] ++
    [9, 13, 15, 7, 12, 8, 9, 11, 7, 7, 12, 7, 6, 15, 13, 11] ++
    [9, 7, 15, 11, 8, 6, 6, 14, 12, 13, 5, 14, 13, 13, 7, 5] ++
    [15, 5, 8, 11, 14, 14, 6, 14, 6, 9, 12, 9, 12, 5, 15, 8] ++
    [8, 5, 12, 9, 12, 5, 14, 6, 8, 13, 6, 5, 15, 13, 11, 11]

/-! ## Compression -/

/-- The boolean functions `F(g, x, y, z)` for `g` from 0 to 4 (R163). -/
def rmdF (g : Nat) (x y z : Word) : Word :=
  match g with
  | 0 => x ^^^ y ^^^ z
  | 1 => (x &&& y) ||| (~~~x &&& z)
  | 2 => (x ||| ~~~y) ^^^ z
  | 3 => (x &&& z) ||| (y &&& ~~~z)
  | _ => x ^^^ (y ||| ~~~z)

/-- The five words of a line (R164), also used for the chaining value. -/
structure RmdLine where
  a : Word
  b : Word
  c : Word
  d : Word
  e : Word
deriving DecidableEq, Repr

/-- One step of a line with boolean function `g`, message word `x`, added constant `k` and rotation `rot` (R164). -/
def rmdStep (g : Nat) (x k : Word) (rot : Nat) (v : RmdLine) : RmdLine :=
  let t := (v.a + rmdF g v.b v.c v.d + x + k).rotateLeft rot + v.e
  ⟨v.e, t, v.b, v.c.rotateLeft 10, v.d⟩

/-- Steps `j` to `j + count - 1` of a line (R164): `group` gives the boolean function of a step, `ks` the added constants,
and the two lists the message-word selections and the rotations of the steps that remain. -/
def rmdSteps (group : Nat → Nat) (ks xs : List Word) : Nat → List Nat → List Nat → RmdLine → RmdLine
  | j, sel :: sels, rot :: rots, v =>
    rmdSteps group ks xs (j + 1) sels rots (rmdStep (group (j / 16)) (xs.getD sel 0) (ks.getD (j / 16) 0) rot v)
  | _, _, _, v => v

/-- The left line, group `j div 16` at step `j` (R163, R164). -/
def rmdLeft (xs : List Word) (v : RmdLine) : RmdLine := rmdSteps (fun g => g) rmdKl xs 0 rmdRl rmdSl v

/-- The right line, group `4 - (j div 16)` at step `j` (R163, R164). -/
def rmdRight (xs : List Word) (v : RmdLine) : RmdLine := rmdSteps (fun g => 4 - g) rmdKr xs 0 rmdRr rmdSr v

/-- The sixteen message words of a block, each read little-endian (R164). -/
def rmdWords (blk : List Byte) : List Word := (cutWords leNat 4 16 blk).map (BitVec.ofNat 32)

/-- `RmdCompress(H, blk)` (R164). -/
def rmdCompress (h : RmdChain) (blk : List Byte) : RmdChain :=
  let start : RmdLine := ⟨h[0], h[1], h[2], h[3], h[4]⟩
  let l := rmdLeft (rmdWords blk) start
  let r := rmdRight (rmdWords blk) start
  #v[h[1] + l.c + r.d, h[2] + l.d + r.e, h[3] + l.e + r.a, h[4] + l.a + r.b, h[0] + l.b + r.c]

/-! ## Padding and digest -/

/-- The block size `B` in bytes (R160). -/
def rmdBlockLen : Nat := 64

/-- `RmdPad(tail, total)`: `Sha2Pad` for `B = 64`, `lf = 8`, with the length field little-endian (R165). -/
def rmdPad (tail : List Byte) (total : Nat) : List (List Byte) := padBlocks rmdBlockLen 8 leBytes tail total

/-- `RmdDigest(H)`: the five words, each little-endian (R166). -/
def rmdDigest (h : RmdChain) : List Byte := h.toList.flatMap fun x => leBytes 4 x.toNat

/-- RIPEMD-160 as a hash (R160, R181). -/
def rmdHash : HashFn RmdChain :=
  { iv := rmdIv, compress := rmdCompress, pad := rmdPad, digest := rmdDigest, blockLen := rmdBlockLen, digestLen := 20 }

/-! ## Commands -/

/-- `RMD_INIT` (R168). -/
def execRmdInit (s : State) : Result := complete 0 (closeHmac (writeRmd rmdIv 0 s))

/-- `RMD_BLOCK` (R169). -/
def execRmdBlock (s : State) : Result :=
  complete 0 (writeRmd (rmdCompress s.rh (msgBytes s rmdBlockLen)) (s.rlen + BitVec.ofNat 64 rmdBlockLen) s)

/-- `RMD_FINAL nbytes` (R170). -/
def execRmdFinal (nbytes : BitVec 8) (s : State) : Result :=
  if rmdHash.blockLen ≤ nbytes.toNat then raiseError .param s
  else
    let total := s.rlen + nbytes.setWidth 64
    let h := rmdHash.close s.rh (msgBytes s nbytes.toNat) total.toNat
    complete 0 (writeDigest (rmdHash.digest h) (writeRmd h total s))

end Sys2Proof.Machine
end

