-- ==== Sys2Proof/Machine/Sha2.lean ====
section
/-! DEFINITION. Machine/Sha2.lean: the SHA-2 engine (41_sha2.md): constants (R131 to R133), compression (R134 to R136),
padding and digest (R137, R138), and the meanings of `SHA_INIT`, `SHA_BLOCK` and `SHA_FINAL`. -/

namespace Sys2Proof.Machine

/-! ## Modes (R130) -/

/-- The modes with 64-bit words. -/
def ShaMode.isWide : ShaMode → Bool
  | .sha224 | .sha256 => false
  | .sha384 | .sha512 => true

/-- The block size `B` in bytes (R130). -/
def shaBlockLen (m : ShaMode) : Nat := if ShaMode.isWide m then 128 else 64

/-- The length of the bit-length field `lf` in bytes (R130). -/
def shaLengthLen (m : ShaMode) : Nat := if ShaMode.isWide m then 16 else 8

/-- The number of bytes of a word (R135). -/
def shaWordLen (m : ShaMode) : Nat := if ShaMode.isWide m then 8 else 4

/-- The digest length `L` in bytes (R130). -/
def shaDigestLen : ShaMode → Nat
  | .sha224 => 28
  | .sha256 => 32
  | .sha384 => 48
  | .sha512 => 64

/-! ## Constants -/

/-- The initial values `IV(mode)` (R131), zero-extended to 64 bits in the 32-bit modes as R140 writes them. -/
def shaIv : ShaMode → ShaChain
  | .sha224 =>
    #v[0xc1059ed8, 0x367cd507, 0x3070dd17, 0xf70e5939,
      0xffc00b31, 0x68581511, 0x64f98fa7, 0xbefa4fa4]
  | .sha256 =>
    #v[0x6a09e667, 0xbb67ae85, 0x3c6ef372, 0xa54ff53a,
      0x510e527f, 0x9b05688c, 0x1f83d9ab, 0x5be0cd19]
  | .sha384 =>
    #v[0xcbbb9d5dc1059ed8, 0x629a292a367cd507, 0x9159015a3070dd17, 0x152fecd8f70e5939,
      0x67332667ffc00b31, 0x8eb44a8768581511, 0xdb0c2e0d64f98fa7, 0x47b5481dbefa4fa4]
  | .sha512 =>
    #v[0x6a09e667f3bcc908, 0xbb67ae8584caa73b, 0x3c6ef372fe94f82b, 0xa54ff53a5f1d36f1,
      0x510e527fade682d1, 0x9b05688c2b3e6c1f, 0x1f83d9abfb41bd6b, 0x5be0cd19137e2179]

/-- `K256[0..63]` (R132). -/
def k256 : List (BitVec 32) :=
    [0x428a2f98, 0x71374491, 0xb5c0fbcf, 0xe9b5dba5, 0x3956c25b, 0x59f111f1, 0x923f82a4, 0xab1c5ed5] ++
    [0xd807aa98, 0x12835b01, 0x243185be, 0x550c7dc3, 0x72be5d74, 0x80deb1fe, 0x9bdc06a7, 0xc19bf174] ++
    [0xe49b69c1, 0xefbe4786, 0x0fc19dc6, 0x240ca1cc, 0x2de92c6f, 0x4a7484aa, 0x5cb0a9dc, 0x76f988da] ++
    [0x983e5152, 0xa831c66d, 0xb00327c8, 0xbf597fc7, 0xc6e00bf3, 0xd5a79147, 0x06ca6351, 0x14292967] ++
    [0x27b70a85, 0x2e1b2138, 0x4d2c6dfc, 0x53380d13, 0x650a7354, 0x766a0abb, 0x81c2c92e, 0x92722c85] ++
    [0xa2bfe8a1, 0xa81a664b, 0xc24b8b70, 0xc76c51a3, 0xd192e819, 0xd6990624, 0xf40e3585, 0x106aa070] ++
    [0x19a4c116, 0x1e376c08, 0x2748774c, 0x34b0bcb5, 0x391c0cb3, 0x4ed8aa4a, 0x5b9cca4f, 0x682e6ff3] ++
    [0x748f82ee, 0x78a5636f, 0x84c87814, 0x8cc70208, 0x90befffa, 0xa4506ceb, 0xbef9a3f7, 0xc67178f2]

/-- `K512[0..79]` (R133). -/
def k512 : List (BitVec 64) :=
    [0x428a2f98d728ae22, 0x7137449123ef65cd, 0xb5c0fbcfec4d3b2f, 0xe9b5dba58189dbbc] ++
    [0x3956c25bf348b538, 0x59f111f1b605d019, 0x923f82a4af194f9b, 0xab1c5ed5da6d8118] ++
    [0xd807aa98a3030242, 0x12835b0145706fbe, 0x243185be4ee4b28c, 0x550c7dc3d5ffb4e2] ++
    [0x72be5d74f27b896f, 0x80deb1fe3b1696b1, 0x9bdc06a725c71235, 0xc19bf174cf692694] ++
    [0xe49b69c19ef14ad2, 0xefbe4786384f25e3, 0x0fc19dc68b8cd5b5, 0x240ca1cc77ac9c65] ++
    [0x2de92c6f592b0275, 0x4a7484aa6ea6e483, 0x5cb0a9dcbd41fbd4, 0x76f988da831153b5] ++
    [0x983e5152ee66dfab, 0xa831c66d2db43210, 0xb00327c898fb213f, 0xbf597fc7beef0ee4] ++
    [0xc6e00bf33da88fc2, 0xd5a79147930aa725, 0x06ca6351e003826f, 0x142929670a0e6e70] ++
    [0x27b70a8546d22ffc, 0x2e1b21385c26c926, 0x4d2c6dfc5ac42aed, 0x53380d139d95b3df] ++
    [0x650a73548baf63de, 0x766a0abb3c77b2a8, 0x81c2c92e47edaee6, 0x92722c851482353b] ++
    [0xa2bfe8a14cf10364, 0xa81a664bbc423001, 0xc24b8b70d0f89791, 0xc76c51a30654be30] ++
    [0xd192e819d6ef5218, 0xd69906245565a910, 0xf40e35855771202a, 0x106aa07032bbd1b8] ++
    [0x19a4c116b8d2d0c8, 0x1e376c085141ab53, 0x2748774cdf8eeb99, 0x34b0bcb5e19b48a8] ++
    [0x391c0cb3c5c95a63, 0x4ed8aa4ae3418acb, 0x5b9cca4f7763e373, 0x682e6ff3d6b2b8a3] ++
    [0x748f82ee5defb2fc, 0x78a5636f43172f60, 0x84c87814a1f0ab72, 0x8cc702081a6439ec] ++
    [0x90befffa23631e28, 0xa4506cebde82bde9, 0xbef9a3f7b2c67915, 0xc67178f2e372532b] ++
    [0xca273eceea26619c, 0xd186b8c721c0c207, 0xeada7dd6cde0eb1e, 0xf57d4f7fee6ed178] ++
    [0x06f067aa72176fba, 0x0a637dc5a2c898a6, 0x113f9804bef90dae, 0x1b710b35131c471b] ++
    [0x28db77f523047d84, 0x32caab7b40c72493, 0x3c9ebe0a15c9bebc, 0x431d67c49c100d4c] ++
    [0x4cc5d4becb3e42b6, 0x597f299cfc657e2a, 0x5fcb6fab3ad6faec, 0x6c44198c4a475817]

/-! ## Compression -/

/-- `Ch` (R134). -/
def choose {w : Nat} (x y z : BitVec w) : BitVec w := (x &&& y) ^^^ (~~~x &&& z)

/-- `Maj` (R134). -/
def majority {w : Nat} (x y z : BitVec w) : BitVec w := (x &&& y) ^^^ (x &&& z) ^^^ (y &&& z)

/-- A `BSIG` function: the exclusive or of three right rotations (R134). -/
def bigSigma {w : Nat} (i j k : Nat) (x : BitVec w) : BitVec w := x.rotateRight i ^^^ x.rotateRight j ^^^ x.rotateRight k

/-- An `SSIG` function: the exclusive or of two right rotations and a right shift (R134). -/
def smallSigma {w : Nat} (i j k : Nat) (x : BitVec w) : BitVec w := x.rotateRight i ^^^ x.rotateRight j ^^^ x >>> k

/-- What the two word sizes differ in: the functions of R134 and the round constants of R132 and R133. -/
structure ShaWords (w : Nat) where
  bsig0 : BitVec w → BitVec w
  bsig1 : BitVec w → BitVec w
  ssig0 : BitVec w → BitVec w
  ssig1 : BitVec w → BitVec w
  k : List (BitVec w)

/-- The 32-bit word functions and constants (R132, R134). -/
def shaWords32 : ShaWords 32 :=
  { bsig0 := bigSigma 2 13 22, bsig1 := bigSigma 6 11 25, ssig0 := smallSigma 7 18 3, ssig1 := smallSigma 17 19 10,
    k := k256 }

/-- The 64-bit word functions and constants (R133, R134). -/
def shaWords64 : ShaWords 64 :=
  { bsig0 := bigSigma 28 34 39, bsig1 := bigSigma 14 18 41, ssig0 := smallSigma 1 8 7, ssig1 := smallSigma 19 61 6,
    k := k512 }

/-- The working variables `a` to `h` (R136), also used for the eight chaining words at width `w`. -/
structure ShaWork (w : Nat) where
  a : BitVec w
  b : BitVec w
  c : BitVec w
  d : BitVec w
  e : BitVec w
  f : BitVec w
  g : BitVec w
  h : BitVec w
deriving DecidableEq, Repr

/-- `count` more words of the message schedule (R135), the newest word first in the list. -/
def extendSchedule {w : Nat} (p : ShaWords w) : Nat → List (BitVec w) → List (BitVec w)
  | 0, ws => ws
  | count + 1, ws =>
    extendSchedule p count ((p.ssig1 (ws.getD 1 0) + ws.getD 6 0 + p.ssig0 (ws.getD 14 0) + ws.getD 15 0) :: ws)

/-- The message schedule `W` of the sixteen words of a block (R135): as many words as there are rounds. -/
def schedule {w : Nat} (p : ShaWords w) (block : List (BitVec w)) : List (BitVec w) :=
  (extendSchedule p (p.k.length - 16) block.reverse).reverse

/-- One round, with the round's constant and schedule word (R136). -/
def shaRound {w : Nat} (p : ShaWords w) (v : ShaWork w) (kw : BitVec w × BitVec w) : ShaWork w :=
  let t1 := v.h + p.bsig1 v.e + choose v.e v.f v.g + kw.1 + kw.2
  let t2 := p.bsig0 v.a + majority v.a v.b v.c
  ⟨t1 + t2, v.a, v.b, v.c, v.d + t1, v.e, v.f, v.g⟩

/-- `Sha2Compress` at one word size (R136), on the sixteen words of the block. -/
def compressWords {w : Nat} (p : ShaWords w) (h : ShaWork w) (block : List (BitVec w)) : ShaWork w :=
  let v := (p.k.zip (schedule p block)).foldl (shaRound p) h
  ⟨h.a + v.a, h.b + v.b, h.c + v.c, h.d + v.d, h.e + v.e, h.f + v.f, h.g + v.g, h.h + v.h⟩

/-- `SH[i] mod 2^w` for `i` from 0 to 7 (R141). -/
def workOf (w : Nat) (h : ShaChain) : ShaWork w :=
  ⟨h[0].setWidth w, h[1].setWidth w, h[2].setWidth w, h[3].setWidth w,
    h[4].setWidth w, h[5].setWidth w, h[6].setWidth w, h[7].setWidth w⟩

/-- `zext_64` of each of the eight words (R141). -/
def chainOf {w : Nat} (v : ShaWork w) : ShaChain :=
  #v[v.a.setWidth 64, v.b.setWidth 64, v.c.setWidth 64, v.d.setWidth 64,
    v.e.setWidth 64, v.f.setWidth 64, v.g.setWidth 64, v.h.setWidth 64]

/-- The sixteen message words of a block, each read big-endian (R135). -/
def blockWords (w len : Nat) (blk : List Byte) : List (BitVec w) := (cutWords beNat len 16 blk).map (BitVec.ofNat w)

/-- `Sha2Compress(mode, H, blk)` on chaining words held in 64 bits: they are taken modulo `2^w` and given back
zero-extended (R33, R136, R141). -/
def shaCompress (m : ShaMode) (h : ShaChain) (blk : List Byte) : ShaChain :=
  if ShaMode.isWide m then chainOf (compressWords shaWords64 (workOf 64 h) (blockWords 64 8 blk))
  else chainOf (compressWords shaWords32 (workOf 32 h) (blockWords 32 4 blk))

/-! ## Padding and digest -/

/-- `Sha2Pad(mode, tail, total)` (R137). -/
def shaPad (m : ShaMode) (tail : List Byte) (total : Nat) : List (List Byte) :=
  padBlocks (shaBlockLen m) (shaLengthLen m) beBytes tail total

/-- `Sha2Digest(mode, H)`: the first `L` bytes of the eight words, each big-endian (R138). -/
def shaDigest (m : ShaMode) (h : ShaChain) : List Byte :=
  (h.toList.flatMap fun x => beBytes (shaWordLen m) x.toNat).take (shaDigestLen m)

/-- The SHA-2 modes as hashes (R181). -/
def shaHash (m : ShaMode) : HashFn ShaChain :=
  { iv := shaIv m, compress := shaCompress m, pad := shaPad m, digest := shaDigest m, blockLen := shaBlockLen m,
    digestLen := shaDigestLen m }

/-! ## Commands -/

/-- `SHA_INIT alg` (R140). -/
def execShaInit (alg : ShaMode) (s : State) : Result :=
  complete 0 (closeHmac (writeSha (shaIv alg) 0 (writeShaMode alg s)))

/-- `SHA_BLOCK` (R141). -/
def execShaBlock (s : State) : Result :=
  let len := shaBlockLen s.smode
  complete 0 (writeSha (shaCompress s.smode s.sh (msgBytes s len)) (s.slen + BitVec.ofNat 64 len) s)

/-- `SHA_FINAL nbytes` (R142). -/
def execShaFinal (nbytes : BitVec 8) (s : State) : Result :=
  let fn := shaHash s.smode
  if fn.blockLen ≤ nbytes.toNat then raiseError .param s
  else
    let total := s.slen + nbytes.setWidth 64
    let h := fn.close s.sh (msgBytes s nbytes.toNat) total.toNat
    complete 0 (writeDigest (fn.digest h) (writeSha h total s))

end Sys2Proof.Machine
end

