-- ==== Sys2Proof/Machine/Hmac.lean ====
section
/-! DEFINITION. Machine/Hmac.lean: the HMAC controller (43_hmac.md): the meanings of `HMAC_INIT` and `HMAC_FINAL` over
either hash engine. -/

namespace Sys2Proof.Machine

/-- `Hash(alg, msg)` (R181). -/
def hashOf : Alg → List Byte → List Byte
  | .sha m => (shaHash m).hash
  | .rmd160 => rmdHash.hash

/-- `Hmac(alg, key, msg)` (R182). -/
def hmacOf : Alg → List Byte → List Byte → List Byte
  | .sha m => (shaHash m).hmac
  | .rmd160 => rmdHash.hmac

/-- The block size `B` of an algorithm (R180). -/
def algBlockLen : Alg → Nat
  | .sha m => (shaHash m).blockLen
  | .rmd160 => rmdHash.blockLen

/-- `BlockKey(alg, key)` (R183). -/
def blockKeyOf : Alg → List Byte → List Byte
  | .sha m => (shaHash m).blockKey
  | .rmd160 => rmdHash.blockKey

/-- The engine's state after `HMAC_INIT` has compressed the inner pad of the block key `k0` (R184). -/
def startInner (alg : Alg) (k0 : List Byte) (s : State) : State :=
  match alg with
  | .sha m => writeSha ((shaHash m).keyed ipad k0) (BitVec.ofNat 64 (shaBlockLen m)) (writeShaMode m s)
  | .rmd160 => writeRmd (rmdHash.keyed ipad k0) (BitVec.ofNat 64 rmdBlockLen) s

/-- The inner finish and the outer hash of `HMAC_FINAL` with hash `f` (R186), from the running chaining value `h`, its byte
count `len`, the tail and the block key: the final chaining value. -/
def finishHmac {α : Type} (f : HashFn α) (h : α) (len : DWord) (tail k0 : List Byte) : α :=
  let total := len + BitVec.ofNat 64 tail.length
  f.outer k0 (f.digest (f.close h tail total.toNat))

/-- The writes of `HMAC_FINAL` (R186): the digest, the engine state left behind, and `HACT <- 0`. -/
def finishInner (alg : Alg) (nbytes : Nat) (s : State) : State :=
  match alg with
  | .sha m =>
    let f := shaHash m
    let h := finishHmac f s.sh s.slen (msgBytes s nbytes) (latchedKey s f.blockLen)
    closeHmac (writeDigest (f.digest h)
      (writeSha h (BitVec.ofNat 64 (f.blockLen + f.digestLen)) (writeShaMode m s)))
  | .rmd160 =>
    let f := rmdHash
    let h := finishHmac f s.rh s.rlen (msgBytes s nbytes) (latchedKey s f.blockLen)
    closeHmac (writeDigest (f.digest h) (writeRmd h (BitVec.ofNat 64 (f.blockLen + f.digestLen)) s))

/-- `HMAC_INIT alg, klen` (R184). -/
def execHmacInit (alg : Alg) (klen : BitVec 8) (s : State) : Result :=
  if 128 < klen.toNat then raiseError .param s
  else
    let k0 := blockKeyOf alg (keyBytes s klen.toNat)
    complete 0 (startInner alg k0 (openHmac alg k0 s))

/-- `HMAC_FINAL nbytes` (R186). -/
def execHmacFinal (nbytes : BitVec 8) (s : State) : Result :=
  if !s.hact then raiseError .seq s
  else if algBlockLen s.halg ≤ nbytes.toNat then raiseError .param s
  else complete 0 (finishInner s.halg nbytes.toNat s)

end Sys2Proof.Machine
end

