-- ==== Sys2Proof/Machine/Dispatch.lean ====
section
/-! DEFINITION. Machine/Dispatch.lean: the meaning of each command, one arm per constructor of `Instr`. -/

namespace Sys2Proof.Machine

/-- The engine's completing step of a decoded command (R44): the rule of that command, then the `STATUS` writes. -/
def exec (i : Instr) (s : State) : Host.Outcome State Fault Refusal :=
  match i with
  | .gcd rd ra rb => Sys2Proof.Machine.execGcd rd ra rb s
  | .egcd rd rc re ra rb => Sys2Proof.Machine.execEgcd rd rc re ra rb s
  | .modinv rd ra rb => Sys2Proof.Machine.execModinv rd ra rb s
  | .sqrtmod rd rc ra rb rounds => Sys2Proof.Machine.execSqrtmod rd rc ra rb rounds s
  | .shaInit alg => Sys2Proof.Machine.execShaInit alg s
  | .shaBlock => Sys2Proof.Machine.execShaBlock s
  | .shaFinal nbytes => Sys2Proof.Machine.execShaFinal nbytes s
  | .rmdInit => Sys2Proof.Machine.execRmdInit s
  | .rmdBlock => Sys2Proof.Machine.execRmdBlock s
  | .rmdFinal nbytes => Sys2Proof.Machine.execRmdFinal nbytes s
  | .hmacInit alg klen => Sys2Proof.Machine.execHmacInit alg klen s
  | .hmacFinal nbytes => Sys2Proof.Machine.execHmacFinal nbytes s
  | .ecOncurve pa => Sys2Proof.Machine.execEcOncurve pa s
  | .ecAdd pd pa pb => Sys2Proof.Machine.execEcAdd pd pa pb s
  | .ecDbl pd pa => Sys2Proof.Machine.execEcDbl pd pa s
  | .ecMul pd pa rk => Sys2Proof.Machine.execEcMul pd pa rk s
  | .ecNeg pd pa => Sys2Proof.Machine.execEcNeg pd pa s
  | .ecLdg pd => Sys2Proof.Machine.execEcLdg pd s

end Sys2Proof.Machine
end

