-- ==== Sys2Proof/Machine/Engine.lean ====
section
/-! DEFINITION. Machine/Engine.lean: who acts in a step (R20): a host access, a reset, or the engine completing the pending
command (R44). -/

namespace Sys2Proof.Machine

/-- The engine's step on a pending command (R44): decode `CMDREG` (R90), then the command's rule; an illegal word completes
with `ERR_ILLEGAL` (R85). -/
def engineStep (s : State) : Result :=
  match decode (fetchCommand s) with
  | .ok i => exec i s
  | .error _ => raiseError .illegal s

/-- A turn of the engine: it is enabled exactly when `BUSY = 1` (R20); otherwise nothing happens. -/
def engineTurn (s : State) : Result := if s.busy then engineStep s else .next s

/-- One turn (R20). -/
def takeTurn (t : Turn) (s : State) : Result :=
  match t with
  | .read idx => .next (hostRead idx s)
  | .write idx v => .next (memWrite idx v s)
  | .hardReset => .next (resetBlock s)
  | .engine => engineTurn s

/-- One step of the machine: the next turn of the order in which the agents act, taken out of it; with no turn left, the
engine's (log entries 8 and 9). -/
def machineStep (s : State) : Result :=
  match s.turns with
  | [] => engineTurn s
  | t :: rest => takeTurn t { s with turns := rest }

/-- The state in which the command word `w` has just been accepted (R43) and the engine has the next turn (log entry 12). -/
def placeCommand (w : Word) (s : State) : State := { accept w s with turns := .engine :: s.turns }

end Sys2Proof.Machine
end

