-- ==== Sys2Proof/Machine/Step.lean ====
section
/-! DEFINITION. Machine/Step.lean: the step of the machine and the placing of a command where the next step takes it. -/

namespace Sys2Proof.Machine

/-- One step (R20): see `machineStep`. -/
def step (s : State) : Host.Outcome State Fault Refusal := machineStep s

/-- `s` with the command word of bits `w` accepted, so that the next step completes it. There is no program counter and no
fetch from a memory: the engine takes its command from `CMDREG` (R22, R44). Log entry 12. -/
def State.withFetchWord (s : State) (nbits w : Nat) : State := placeCommand (commandWord nbits w) s

end Sys2Proof.Machine
end

