-- ==== Sys2Proof/Safety.lean ====
section
/-! DEFINITION. Safety.lean: the terms in which claims about the machine are made: the invariant of a state, what a
completion leaves unchanged, and when an engine's state stands for a message read so far. -/

namespace Sys2Proof.Machine

/-! ## The invariant -/

/-- Every `OPW`-bit register holds a number below `2^OPW` (R5, R21, R36, R37). -/
abbrev State.WidthsFit (s : State) : Prop :=
  (∀ i : RegIdx, s.r[i] < 2 ^ s.cfg.opw) ∧ (∀ i : PtIdx, s.pt[i].x < 2 ^ s.cfg.opw ∧ s.pt[i].y < 2 ^ s.cfg.opw) ∧
  s.cp < 2 ^ s.cfg.opw ∧ s.ca < 2 ^ s.cfg.opw ∧ s.cb < 2 ^ s.cfg.opw ∧ s.gx < 2 ^ s.cfg.opw ∧
  s.gy < 2 ^ s.cfg.opw ∧ s.cn < 2 ^ s.cfg.opw

/-- The byte memories are in canonical form and list no address outside the buffers they hold (R30, R31, R32, R35). -/
abbrev State.BuffersFit (s : State) : Prop :=
  Memory.wf s.mem = true ∧ withinRange s.mem msgBase bufEnd = true ∧ Memory.wf s.hk0 = true ∧
  withinRange s.hk0 0 128 = true

/-- What the `STATUS` fields never disagree in: `RES` is 0, 1 or 2 (R26); a command that ended in error left `RES = 0`
(R44); while a command is pending `DONE`, `ERR` and `RES` are 0 (R43). -/
abbrev State.StatusFits (s : State) : Prop :=
  s.res ≤ 2#2 ∧ (s.err ≠ .ok → s.res = 0#2) ∧ (s.busy = true → s.done = false ∧ s.err = .ok ∧ s.res = 0#2)

/-- The invariant of the machine. -/
abbrev State.Inv (s : State) : Prop := s.WidthsFit ∧ s.BuffersFit ∧ s.StatusFits

/-! ## What a step leaves unchanged -/

/-- The `STATUS` fields after a completion with error code `e` and result kind `res` (R44). -/
abbrev Completed (e : ErrCode) (res : BitVec 2) (t : State) : Prop :=
  t.err = e ∧ t.res = res ∧ t.busy = false ∧ t.done = true

/-- The operand registers are unchanged. -/
abbrev SameRegs (s t : State) : Prop := t.r = s.r

/-- The operand registers other than one are unchanged. -/
abbrev SameRegsBut (rd : RegIdx) (s t : State) : Prop := ∀ k : RegIdx, k ≠ rd → t.r[k] = s.r[k]

/-- The point registers are unchanged. -/
abbrev SamePoints (s t : State) : Prop := t.pt = s.pt

/-- The point registers other than one are unchanged. -/
abbrev SamePointsBut (pd : PtIdx) (s t : State) : Prop := ∀ k : PtIdx, k ≠ pd → t.pt[k] = s.pt[k]

/-- The curve-parameter registers are unchanged. -/
abbrev SameCurve (s t : State) : Prop :=
  t.cp = s.cp ∧ t.ca = s.ca ∧ t.cb = s.cb ∧ t.gx = s.gx ∧ t.gy = s.gy ∧ t.cn = s.cn

/-- The SHA-2 engine's state is unchanged. -/
abbrev SameSha (s t : State) : Prop := t.sh = s.sh ∧ t.slen = s.slen ∧ t.smode = s.smode

/-- The RIPEMD-160 engine's state is unchanged. -/
abbrev SameRmd (s t : State) : Prop := t.rh = s.rh ∧ t.rlen = s.rlen

/-- The HMAC controller's algorithm and latched key are unchanged. -/
abbrev SameKey (s t : State) : Prop := t.halg = s.halg ∧ ∀ a : Nat, readByte t.hk0 a = readByte s.hk0 a

/-- Every byte of the buffers `MSG`, `KEY` and `DIG` is unchanged. -/
abbrev SameBuffers (s t : State) : Prop := ∀ a : Nat, readByte t.mem a = readByte s.mem a

/-- Every byte of the buffers outside `DIG` is unchanged. -/
abbrev SameBuffersButDigest (s t : State) : Prop :=
  ∀ a : Nat, (a < digBase ∨ bufEnd ≤ a) → readByte t.mem a = readByte s.mem a

/-- `CMDREG`, `CTRL`, `FAULT` and the parameters are unchanged. -/
abbrev SameControl (s t : State) : Prop :=
  t.cfg = s.cfg ∧ t.cmdreg = s.cmdreg ∧ t.ie = s.ie ∧ t.faultWbusy = s.faultWbusy ∧ t.faultBadaddr = s.faultBadaddr

/-- What lies outside the block, but for the random source, is unchanged. -/
abbrev SameOutside (s t : State) : Prop := t.turns = s.turns ∧ t.busyReads = s.busyReads ∧ t.rdata = s.rdata

/-- Everything is unchanged but the `STATUS` fields `BUSY`, `DONE`, `ERR` and `RES` and the random source, which is no state
of the block (R8, R242). -/
abbrev SameButStatus (s t : State) : Prop :=
  SameRegs s t ∧ SamePoints s t ∧ SameCurve s t ∧ SameSha s t ∧ SameRmd s t ∧ SameKey s t ∧ t.hact = s.hact ∧
  SameBuffers s t ∧ SameControl s t ∧ SameOutside s t

/-- A command of the modular-arithmetic unit changes nothing but operand registers and `STATUS` (R100). -/
abbrev SameOutsideModArith (s t : State) : Prop :=
  SamePoints s t ∧ SameCurve s t ∧ SameSha s t ∧ SameRmd s t ∧ SameKey s t ∧ t.hact = s.hact ∧ SameBuffers s t ∧
  SameControl s t ∧ SameOutside s t

/-- A command of the EC unit changes nothing but one point register and `STATUS`. -/
abbrev SameOutsideEc (s t : State) : Prop :=
  SameRegs s t ∧ SameCurve s t ∧ SameSha s t ∧ SameRmd s t ∧ SameKey s t ∧ t.hact = s.hact ∧ SameBuffers s t ∧
  SameControl s t ∧ SameOutside s t ∧ t.rnd = s.rnd

/-- A hash or HMAC command changes no operand, point or curve register, no control register, and nothing outside. -/
abbrev SameOutsideHash (s t : State) : Prop :=
  SameRegs s t ∧ SamePoints s t ∧ SameCurve s t ∧ SameControl s t ∧ SameOutside s t ∧ t.rnd = s.rnd

/-- The digest buffer holds a digest in its first bytes and zeros after it (R32). -/
abbrev DigestIs (d : List Byte) (t : State) : Prop := ∀ i : Nat, i < 64 → readByte t.mem (digBase + i) = d.getD i 0

/-- A bus word is bits `32j+31 : 32j` of a wide integer (R62). -/
abbrev WordAt (j : Nat) (w : Word) (x : Nat) : Prop := ∀ b : Nat, b < 32 → w.getLsbD b = x.testBit (32 * j + b)

/-- A wide integer is another one with its bits `32j+31 : 32j` replaced by a bus word (R62). -/
abbrev WordReplaced (j : Nat) (w : Word) (old new : Nat) : Prop :=
  ∀ b : Nat, new.testBit b = if 32 * j ≤ b ∧ b < 32 * j + 32 then w.getLsbD (b - 32 * j) else old.testBit b

/-- The outcome is a next state. -/
abbrev Completes (o : Result) : Prop := ∃ t, o = .next t

/-! ## Engine states that stand for a message read so far -/

/-- The SHA-2 engine is in mode `m` and has compressed the message `m0`, a whole number of blocks (R139). -/
abbrev ShaHolds (m : ShaMode) (m0 : List Byte) (s : State) : Prop :=
  s.smode = m ∧ m0.length % shaBlockLen m = 0 ∧
  s.sh = (shaHash m).absorb (shaIv m) (cutBlocks (shaBlockLen m) (m0.length / shaBlockLen m) m0) ∧
  s.slen = BitVec.ofNat 64 m0.length

/-- The RIPEMD-160 engine has compressed the message `m0`, a whole number of blocks (R167). -/
abbrev RmdHolds (m0 : List Byte) (s : State) : Prop :=
  m0.length % rmdBlockLen = 0 ∧
  s.rh = rmdHash.absorb rmdIv (cutBlocks rmdBlockLen (m0.length / rmdBlockLen) m0) ∧
  s.rlen = BitVec.ofNat 64 m0.length

/-- An HMAC over `alg` with key `key` is open and its engine has compressed the inner pad block and then the message
`m0`, a whole number of blocks (R184, R185). -/
abbrev HmacHolds (alg : Alg) (key m0 : List Byte) (s : State) : Prop :=
  s.hact = true ∧ s.halg = alg ∧ latchedKey s (algBlockLen alg) = blockKeyOf alg key ∧
  match alg with
  | .sha m => ShaHolds m (xorBytes ipad (blockKeyOf alg key) ++ m0) s
  | .rmd160 => RmdHolds (xorBytes ipad (blockKeyOf alg key) ++ m0) s

end Sys2Proof.Machine
end

