-- ==== Sys2Proof/Certificates/Slice0/Obligations.lean ====
section
/-! DEFINITION. Certificates/Slice0/Obligations.lean: the statements for the provers. Each docstring names the rule of the
spec it formalises; where a clause rests on a choice of the model, it says so and names the log entry. Throughout, `turns` and
what `step` does with none left (log entries 8 and 9), `rdata` (log entry 10) and the premise `Memory.wf` on the byte buffers
(log entry 15) are the model's way to say who acts, what a read returned, and that the buffers are in their one form; they
are no words of the spec. -/

open Sys2Proof Sys2Proof.Machine

/-! ## Encoding (30_encoding.md) -/

/-- Decoding the word of a well-formed command gives it back, with every field at every value (R81, R82, R84, R90). -/
def Obligations.DecodeOfEncode : Prop := ∀ i : Instr, i.wellFormed = true → decode (encode i) = .ok i

/-- A word that decodes is the one word of the command it decodes to, and that command is well-formed: no legal word has a
bit that the decoder drops (R84, R85). -/
def Obligations.EncodeOfDecode : Prop := ∀ (w : Word) (i : Instr), decode w = .ok i → encode i = w ∧ i.wellFormed = true

/-- Words worked out in the spec decode to the commands it gives for them (R84, the examples of R103 to R214). -/
def Obligations.WorkedWordsDecode : Prop :=
  decode 0x00011A10 = .ok (.gcd 2 3 4) ∧ decode 0x007C4511 = .ok (.egcd 5 6 7 0 1) ∧
  decode 0x00004212 = .ok (.modinv 2 0 1) ∧ decode 0x050CE513 = .ok (.sqrtmod 5 6 4 3 5) ∧
  decode 0x00000120 = .ok (.shaInit .sha256) ∧ decode 0x00030022 = .ok (.shaFinal 3) ∧
  decode 0x00000031 = .ok .rmdBlock ∧ decode 0x00080340 = .ok (.hmacInit (.sha .sha512) 8) ∧
  decode 0x0000D051 = .ok (.ecAdd 0 2 3) ∧ decode 0x00020253 = .ok (.ecMul 2 0 1) ∧
  decode 0x00000B54 = .ok (.ecNeg 3 1)

/-- R85: which words are illegal, and what an illegal word does: it is accepted like any other, and the engine's step
completes with `ERR_ILLEGAL` and no other state change. -/
def Obligations.IllegalWordRule : Prop :=
  (∀ w : Word, (∃ e, decode w = .error e) ↔
    ((∀ row ∈ opRows, row.opcode ≠ w.extractLsb' 0 8) ∨
     (∃ row ∈ opRows, row.opcode = w.extractLsb' 0 8 ∧ w &&& row.mask ≠ row.pattern) ∨
     (fieldAt w 0 8 = 0x11 ∧
      (fieldAt w 8 3 = fieldAt w 17 3 ∨ fieldAt w 8 3 = fieldAt w 20 3 ∨ fieldAt w 17 3 = fieldAt w 20 3)) ∨
     (fieldAt w 0 8 = 0x13 ∧ fieldAt w 8 3 = fieldAt w 17 3) ∨
     (fieldAt w 0 8 = 0x40 ∧ 4 < fieldAt w 8 3))) ∧
  (∀ (s : State) (w : Word) (rest : List Turn), s.busy = false → s.turns = .write 2 w :: rest →
    step s = .next (accept w { s with turns := rest })) ∧
  ∀ (s : State) (e : Illegal), s.busy = true → s.turns = [] → decode s.cmdreg = .error e →
    ∃ t, step s = .next t ∧ Completed .illegal 0 t ∧ SameButStatus s t ∧ t.rnd = s.rnd

/-! ## The life of a command (10_state.md, 60_exceptions.md) -/

/-- When a command is pending and the engine acts, the step is the decoded command's `exec`, with nothing added: in a state
with no turn waiting (log entry 9), in a state whose next turn is the engine's (log entry 8), and after `withFetchWord` (log
entry 12), which stands for the host's write to `CMD` (R44, R90). -/
def Obligations.StepRunsDecodedCommand : Prop :=
  (∀ (s : State) (i : Instr), s.busy = true → s.turns = [] → decode s.cmdreg = .ok i → step s = exec i s) ∧
  (∀ (s : State) (i : Instr) (rest : List Turn), s.busy = true → s.turns = .engine :: rest → decode s.cmdreg = .ok i →
    step s = exec i { s with turns := rest }) ∧
  (∀ (s : State) (nbits w : Nat) (i : Instr), decodeTableWord nbits w = some i →
    step (s.withFetchWord nbits w) = exec i (accept (commandWord nbits w) s))

/-- R43: a write to `CMD` while idle accepts any word; while busy it is dropped and `FAULT.WBUSY` is set. -/
def Obligations.AcceptanceRule : Prop :=
  ∀ (s : State) (w : Word) (rest : List Turn), s.turns = .write 2 w :: rest →
    (s.busy = false → ∃ t, step s = .next t ∧ t.cmdreg = w ∧ t.busy = true ∧ t.done = false ∧ t.err = .ok ∧ t.res = 0 ∧
      t = { s with turns := rest, cmdreg := t.cmdreg, busy := t.busy, done := t.done, err := t.err, res := t.res } ∧
      ∀ e, decode w = .error e → ∃ u, step { t with turns := [] } = .next u ∧ u.err = .illegal) ∧
    (s.busy = true → step s = .next { s with turns := rest, faultWbusy := true })

/-- R242: a command that ends in error changes nothing but `STATUS`; `CMDREG` keeps its word, and the interrupt rises if it
is enabled. -/
def Obligations.ErrorChangesNothing : Prop :=
  ∀ (i : Instr) (s t : State), exec i s = .next t → t.err ≠ .ok →
    SameButStatus s t ∧ t.res = 0 ∧ t.busy = false ∧ t.done = true ∧ irq t = s.ie

/-- Whatever command completes, it leaves `MSG`, `KEY`, the curve registers, `CMDREG`, `CTRL`, `FAULT` and the parameters as
they were, and `BUSY` is 0 and `DONE` is 1 after it (R30, R31, R36, R44). -/
def Obligations.CommandsWriteNoHostRegister : Prop :=
  ∀ (i : Instr) (s t : State), exec i s = .next t →
    SameCurve s t ∧ SameBuffersButDigest s t ∧ SameControl s t ∧ SameOutside s t ∧ t.busy = false ∧ t.done = true

/-- The life of `HACT` (R187): which commands set and clear it, that no other command and no host write but a soft reset
changes it, that it gates `HMAC_FINAL` alone, and that `HALG` and `HK0` are written by `HMAC_INIT` and reset alone. -/
def Obligations.HactLife : Prop :=
  State.reset.hact = false ∧
  (∀ (alg : Alg) (klen : BitVec 8) (s t : State), exec (.hmacInit alg klen) s = .next t → t.err = .ok → t.hact = true) ∧
  (∀ (nbytes : BitVec 8) (s t : State), exec (.hmacFinal nbytes) s = .next t → t.err = .ok → t.hact = false) ∧
  (∀ (m : ShaMode) (s t : State), exec (.shaInit m) s = .next t → t.hact = false) ∧
  (∀ (s t : State), exec .rmdInit s = .next t → t.hact = false) ∧
  (∀ (i : Instr) (s t : State), exec i s = .next t →
    (∀ alg klen, i ≠ .hmacInit alg klen) → (∀ nbytes, i ≠ .hmacFinal nbytes) → (∀ m, i ≠ .shaInit m) → i ≠ .rmdInit →
    t.hact = s.hact) ∧
  (∀ (i : Instr) (s t : State), exec i s = .next t → (∀ alg klen, i ≠ .hmacInit alg klen) → SameKey s t) ∧
  (∀ (idx : WordIdx) (v : Word) (s : State), (memWrite idx v s).hact = s.hact ∧ SameKey s (memWrite idx v s) ∨
    idx = 4 ∧ v.getLsbD 0 = true) ∧
  (∀ (i : Instr) (s t : State) (b : Bool), exec i s = .next t → (∀ nbytes, i ≠ .hmacFinal nbytes) →
    ∃ t', exec i { s with hact := b } = .next t' ∧ t' = { t with hact := t'.hact })

/-- The interrupt output after each event that R246 names: completion, with or without error, the write of 1 to `DONE`, the
next acceptance, clearing `IE`, and reset (R41, R246). -/
def Obligations.InterruptLevel : Prop :=
  (∀ s t : State, engineStep s = .next t → irq t = s.ie) ∧
  (∀ (s : State) (v : Word), s.busy = false → v.getLsbD 1 = true → irq (memWrite 3 v s) = false) ∧
  (∀ (s : State) (w : Word), s.busy = false → irq (memWrite 2 w s) = false) ∧
  (∀ (s : State) (v : Word), v.getLsbD 1 = false → irq (memWrite 4 v s) = false) ∧
  (∀ s : State, irq (resetBlock s) = false)

/-- Between acceptance and completion the architectural state does not change, but for `CTRL.IE` and the `FAULT` bits: no
host access other than a soft reset touches anything else (R42, R46). -/
def Obligations.PendingCommandFrozen : Prop :=
  ∀ (s : State) (rest : List Turn), s.busy = true →
    (∀ idx, s.turns = .read idx :: rest → ∃ t, step s = .next t ∧
      t = { s with turns := rest, faultBadaddr := t.faultBadaddr, busyReads := t.busyReads, rdata := t.rdata }) ∧
    (∀ idx v, s.turns = .write idx v :: rest → (idx ≠ 4 ∨ v.getLsbD 0 = false) → ∃ t, step s = .next t ∧
      t = { s with turns := rest, faultBadaddr := t.faultBadaddr, faultWbusy := t.faultWbusy, ie := t.ie })

/-! ## Host accesses (20_memory.md) -/

/-- R66: the offsets that hold no register are those that R61 does not list, and an access to one reads 0 or is dropped,
and sets `FAULT.BADADDR`, also while busy, with no other effect. -/
def Obligations.UnmappedAccessRule : Prop :=
  (∀ (c : Config) (idx : WordIdx) (off : Nat), off = byteOffset idx → (locate c off = none ↔
    ¬ (off ≤ 0x14 ∨ 0x100 ≤ off ∧ off ≤ 0x288 ∨ 0x2A0 ≤ off ∧ off ≤ 0x2B0 ∨ off = 0x2B8 ∨ off = 0x2BC ∨
      (∃ k j, k < 8 ∧ j < c.nw ∧ off = 0x1000 + 0x100 * k + 4 * j) ∨
      (∃ k j, k < 6 ∧ j < c.nw ∧ off = 0x2000 + 0x100 * k + 4 * j) ∨
      (∃ i j, i < 4 ∧ j < c.nw ∧ (off = 0x3000 + 0x400 * i + 4 * j ∨ off = 0x3100 + 0x400 * i + 4 * j)) ∨
      (∃ i, i < 4 ∧ off = 0x3200 + 0x400 * i)))) ∧
  (∀ (s : State) (idx : WordIdx) (rest : List Turn), locate s.cfg (byteOffset idx) = none →
    (s.turns = .read idx :: rest → step s = .next { s with turns := rest, faultBadaddr := true, rdata := 0 }) ∧
    (∀ v, s.turns = .write idx v :: rest → step s = .next { s with turns := rest, faultBadaddr := true }))

/-- Accesses to control registers, and accesses while busy (R26, R27, R28, R46, R67, R73). While busy a control register
reads its value, another register reads an unspecified value with no side effect on the block, a write to `CTRL` takes effect
and any other write to a register is dropped with `FAULT.WBUSY` set. While idle a write to `FAULT` clears exactly the bits
written 1, a write to `STATUS` clears `DONE` alone, a write to `ID`, `CONFIG` or `DIG` is dropped with no fault bit, and a
read has no side effect. A write to `CTRL` that is no soft reset sets `IE` alone, busy or not.

The model's choices: the unspecified value is `Config.busyRead` of a counter that each such read advances (log entry 11), and
the test for an offset without a register comes before the busy test, as read from R73 (log entry 20). -/
def Obligations.BusyAccessRule : Prop :=
  (∀ (s : State) (idx : WordIdx) (loc : Loc), s.busy = true → locate s.cfg (byteOffset idx) = some loc →
    (loc.isControl = true → memRead idx s = (readLoc s loc, s)) ∧
    (loc.isControl = false → (memRead idx s).1 = Config.busyRead s.busyReads ∧
      (memRead idx s).2 = { s with busyReads := s.busyReads + 1 }) ∧
    (loc ≠ .ctrl → ∀ v, memWrite idx v s = { s with faultWbusy := true }) ∧
    (loc = .ctrl → ∀ v, v.getLsbD 0 = false → memWrite idx v s = { s with ie := v.getLsbD 1 })) ∧
  (∀ (s : State) (v : Word), v.getLsbD 0 = false → memWrite 4 v s = { s with ie := v.getLsbD 1 }) ∧
  (∀ (s : State) (v : Word), s.busy = false →
    memWrite 5 v s = { s with faultWbusy := s.faultWbusy && !v.getLsbD 0,
                              faultBadaddr := s.faultBadaddr && !v.getLsbD 1 } ∧
    memWrite 3 v s = { s with done := s.done && !v.getLsbD 1 } ∧
    memWrite 0 v s = s ∧ memWrite 1 v s = s ∧ ∀ j, j < 16 → memWrite (BitVec.ofNat 12 (0x80 + j)) v s = s) ∧
  (∀ (s : State) (idx : WordIdx), s.busy = false → locate s.cfg (byteOffset idx) ≠ none → (memRead idx s).2 = s)

/-- The address map of the data registers (R61, R62) and that a word written by an idle host reads back (R67, R73). First:
in every state of the invariant a word reads back whole from every storing register, its low two bits from `SMODE`, its low
bit from `INF`. Then, offset by offset, which register a word of the window is: a read gives, and a write replaces, bits
`32j+31 : 32j` of the register that R61 places there, and nothing else changes. The bytes of the buffers are in
`ByteLanes`. -/
def Obligations.WriteReadsBack : Prop :=
  (∀ (s : State) (idx : WordIdx) (v : Word) (loc : Loc), s.Inv → s.busy = false →
    locate s.cfg (byteOffset idx) = some loc → loc.isControl = false → (∀ off, loc ≠ .digest off) →
    (memRead idx (memWrite idx v s)).1 =
      (if loc = .smode then v &&& 3 else if ∃ i, loc = .ptInf i then v &&& 1 else v)) ∧
  ∀ (s : State) (idx : WordIdx) (v : Word), s.busy = false →
    (∀ (k : RegIdx) (j : Nat), j < s.cfg.nw → byteOffset idx = 0x1000 + 0x100 * k + 4 * j →
      WordAt j (memRead idx s).1 s.r[k] ∧
      ∃ x, memWrite idx v s = { s with r := s.r.set k x } ∧ WordReplaced j v s.r[k] x) ∧
    (∀ j, j < s.cfg.nw →
      (byteOffset idx = 0x2000 + 4 * j → WordAt j (memRead idx s).1 s.cp ∧
        ∃ x, memWrite idx v s = { s with cp := x } ∧ WordReplaced j v s.cp x) ∧
      (byteOffset idx = 0x2100 + 4 * j → WordAt j (memRead idx s).1 s.ca ∧
        ∃ x, memWrite idx v s = { s with ca := x } ∧ WordReplaced j v s.ca x) ∧
      (byteOffset idx = 0x2200 + 4 * j → WordAt j (memRead idx s).1 s.cb ∧
        ∃ x, memWrite idx v s = { s with cb := x } ∧ WordReplaced j v s.cb x) ∧
      (byteOffset idx = 0x2300 + 4 * j → WordAt j (memRead idx s).1 s.gx ∧
        ∃ x, memWrite idx v s = { s with gx := x } ∧ WordReplaced j v s.gx x) ∧
      (byteOffset idx = 0x2400 + 4 * j → WordAt j (memRead idx s).1 s.gy ∧
        ∃ x, memWrite idx v s = { s with gy := x } ∧ WordReplaced j v s.gy x) ∧
      (byteOffset idx = 0x2500 + 4 * j → WordAt j (memRead idx s).1 s.cn ∧
        ∃ x, memWrite idx v s = { s with cn := x } ∧ WordReplaced j v s.cn x)) ∧
    (∀ (i : PtIdx) (j : Nat), j < s.cfg.nw →
      (byteOffset idx = 0x3000 + 0x400 * i + 4 * j → WordAt j (memRead idx s).1 s.pt[i].x ∧
        ∃ x, memWrite idx v s = { s with pt := s.pt.set i { s.pt[i] with x := x } } ∧ WordReplaced j v s.pt[i].x x) ∧
      (byteOffset idx = 0x3100 + 0x400 * i + 4 * j → WordAt j (memRead idx s).1 s.pt[i].y ∧
        ∃ y, memWrite idx v s = { s with pt := s.pt.set i { s.pt[i] with y := y } } ∧ WordReplaced j v s.pt[i].y y)) ∧
    (∀ i : PtIdx, byteOffset idx = 0x3200 + 0x400 * i → (memRead idx s).1 = (if s.pt[i].inf then 1 else 0) ∧
      memWrite idx v s = { s with pt := s.pt.set i { s.pt[i] with inf := v.getLsbD 0 } }) ∧
    (∀ (i : Fin 8) (h : Nat), h < 2 → byteOffset idx = 0x240 + 8 * i + 4 * h →
      WordAt h (memRead idx s).1 s.sh[i].toNat ∧
      ∃ x : DWord, memWrite idx v s = { s with sh := s.sh.set i x } ∧ WordReplaced h v s.sh[i].toNat x.toNat) ∧
    (∀ h, h < 2 →
      (byteOffset idx = 0x280 + 4 * h → WordAt h (memRead idx s).1 s.slen.toNat ∧
        ∃ x : DWord, memWrite idx v s = { s with slen := x } ∧ WordReplaced h v s.slen.toNat x.toNat) ∧
      (byteOffset idx = 0x2B8 + 4 * h → WordAt h (memRead idx s).1 s.rlen.toNat ∧
        ∃ x : DWord, memWrite idx v s = { s with rlen := x } ∧ WordReplaced h v s.rlen.toNat x.toNat)) ∧
    (byteOffset idx = 0x288 →
      [ShaMode.sha224, .sha256, .sha384, .sha512][(memRead idx s).1.toNat]? = some s.smode ∧
      ∃ m, memWrite idx v s = { s with smode := m } ∧
        [ShaMode.sha224, .sha256, .sha384, .sha512][v.toNat % 4]? = some m) ∧
    (∀ i : Fin 5, byteOffset idx = 0x2A0 + 4 * i → (memRead idx s).1 = s.rh[i] ∧
      memWrite idx v s = { s with rh := s.rh.set i v })

/-- A write to a data register or buffer leaves what every other word of the window reads as unchanged (R64, R65). -/
def Obligations.WriteLeavesOtherWords : Prop :=
  ∀ (s : State) (idx other : WordIdx) (v : Word) (loc : Loc), s.Inv → s.busy = false →
    locate s.cfg (byteOffset idx) = some loc → loc.isControl = false → other ≠ idx →
    (memRead other (memWrite idx v s)).1 = (memRead other s).1

/-- The byte lanes of a buffer word (R62): a read of word `j` of `MSG`, `KEY` and `DIG`, which follow one another, shows byte
`4j + k` in bits `8k+7 : 8k`; the write to word `j` of `MSG` or `KEY` puts these bits in that byte, and no other byte
changes. -/
def Obligations.ByteLanes : Prop :=
  (∀ (s : State) (j k : Nat), s.busy = false → j < 80 → k < 4 →
    (memRead (BitVec.ofNat 12 (0x40 + j)) s).1.extractLsb' (8 * k) 8 = readByte s.mem (msgBase + 4 * j + k)) ∧
  ∀ (s : State) (j : Nat) (v : Word), Memory.wf s.mem = true → s.busy = false → j < 64 →
    (∀ k, k < 4 → readByte (memWrite (BitVec.ofNat 12 (0x40 + j)) v s).mem (msgBase + 4 * j + k) =
      v.extractLsb' (8 * k) 8) ∧
    (∀ a, (a < msgBase + 4 * j ∨ msgBase + 4 * j + 4 ≤ a) →
      readByte (memWrite (BitVec.ofNat 12 (0x40 + j)) v s).mem a = readByte s.mem a)

/-- Both resets have the same effect, busy or not: the control state of R40, a pending command abandoned; the soft reset wins
over bit 1 of the same write. What the data registers hold after it is the model's choice (log entry 1) and not stated
(R270, R271). -/
def Obligations.ResetRule : Prop :=
  ∀ (s : State) (v : Word) (rest : List Turn), v.getLsbD 0 = true →
    ∃ t, step { s with turns := .write 4 v :: rest } = .next t ∧ step { s with turns := .hardReset :: rest } = .next t ∧
      t.turns = rest ∧ t.cfg = s.cfg ∧ t.busy = false ∧ statusWord t = 0 ∧ ctrlWord t = 0 ∧ faultWord t = 0 ∧
      t.cmdreg = 0 ∧ t.smode = .sha224 ∧ t.slen = 0 ∧ t.rlen = 0 ∧ (∀ i : PtIdx, t.pt[i].inf = false) ∧ irq t = false ∧
      readLoc t .id = 0x43524950 ∧ readLoc t .config = configWord s.cfg

/-- The layout of the six control registers as any state reads them (R23 to R28), with the numbering of the error codes
(R241), of the result kinds (R26) and of the algorithms (R82); and the reset state reads as R40 says where it gives a value:
`ID`, `CONFIG` of the reference block, `CMD`, `STATUS`, `CTRL`, `FAULT`, `SMODE`, `SLEN`, `RLEN`, the `INF` bits and `irq`. -/
def Obligations.ResetValues : Prop :=
  (∀ s : State,
    (memRead 0 s).1 = 0x43524950 ∧
    (((memRead 1 s).1.extractLsb' 0 8).toNat = s.cfg.nw ∧ (memRead 1 s).1.extractLsb' 8 4 = 8 ∧
      (memRead 1 s).1.extractLsb' 12 4 = 4 ∧ (memRead 1 s).1.extractLsb' 16 16 = 0) ∧
    (memRead 2 s).1 = s.cmdreg ∧
    ((memRead 3 s).1.getLsbD 0 = s.busy ∧ (memRead 3 s).1.getLsbD 1 = s.done ∧ (memRead 3 s).1.extractLsb' 2 2 = 0 ∧
      [ErrCode.ok, .illegal, .param, .seq, .modulus, .noInverse, .notOnCurve][
        ((memRead 3 s).1.extractLsb' 4 4).toNat]? = some s.err ∧
      (memRead 3 s).1.extractLsb' 8 2 = s.res ∧ (memRead 3 s).1.extractLsb' 10 2 = 0 ∧
      (memRead 3 s).1.getLsbD 12 = s.hact ∧ (memRead 3 s).1.extractLsb' 13 3 = 0 ∧
      [Alg.sha .sha224, .sha .sha256, .sha .sha384, .sha .sha512, .rmd160][
        ((memRead 3 s).1.extractLsb' 16 3).toNat]? = some s.halg ∧
      (memRead 3 s).1.extractLsb' 19 13 = 0) ∧
    ((memRead 4 s).1.getLsbD 0 = false ∧ (memRead 4 s).1.getLsbD 1 = s.ie ∧ (memRead 4 s).1.extractLsb' 2 30 = 0) ∧
    ((memRead 5 s).1.getLsbD 0 = s.faultWbusy ∧ (memRead 5 s).1.getLsbD 1 = s.faultBadaddr ∧
      (memRead 5 s).1.extractLsb' 2 30 = 0)) ∧
  (memRead 0 State.reset).1 = 0x43524950 ∧ (memRead 1 State.reset).1 = 0x00004808 ∧
  (memRead 2 State.reset).1 = 0 ∧ (memRead 3 State.reset).1 = 0 ∧ (memRead 4 State.reset).1 = 0 ∧
  (memRead 5 State.reset).1 = 0 ∧ State.reset.smode = .sha224 ∧ State.reset.slen = 0 ∧ State.reset.rlen = 0 ∧
  (∀ i : PtIdx, State.reset.pt[i].inf = false) ∧ irq State.reset = false

/-! ## Invariants -/

/-- The reset state meets the invariant. -/
def Obligations.ResetMeetsInvariant : Prop := State.reset.Inv

/-- Every step keeps the invariant: registers stay below `2^OPW` (R5: every result of every command lies below it), the
buffers stay canonical and in their places, `STATUS` stays consistent (R26, R43, R44). -/
def Obligations.StepKeepsInvariant : Prop := ∀ s t : State, s.Inv → step s = .next t → t.Inv

/-- The machine never refuses, and it stops only where R111 leaves the behaviour unspecified: on a pending `SQRTMOD` whose
modulus is odd, at least 3 and not prime. That it stops there is R111's advice to a model (log entry 7). -/
def Obligations.StopsOnlyOnCompositeModulus : Prop :=
  (∀ (s : State) (r : Refusal), step s ≠ .refused r) ∧
  (∀ (s : State) (f : Fault), step s = .fault f →
    s.busy = true ∧ ∃ rd rc ra rb rounds, decode s.cmdreg = .ok (.sqrtmod rd rc ra rb rounds) ∧
      3 ≤ s.r[rb] ∧ s.r[rb] % 2 = 1 ∧ ¬ Nat.Prime s.r[rb])

/-! ## Modular arithmetic (40_modarith.md) -/

/-- R101: the triple of `Egcd` satisfies the contract, has the special cases of the rule, and is exactly the pair of the
algorithm: what one round of the loop makes of the triple of the next pair of remainders. -/
def Obligations.EgcdContract : Prop :=
  (∀ x y : Nat, (egcd x y).g = Nat.gcd x y ∧ ((egcd x y).g : Int) = (egcd x y).s * x + (egcd x y).t * y) ∧
  (∀ x : Nat, egcd x 0 = ⟨x, 1, 0⟩) ∧ (∀ y : Nat, 0 < y → egcd 0 y = ⟨y, 0, 1⟩) ∧
  (∀ x : Nat, 0 < x → egcd x x = ⟨x, 0, 1⟩) ∧
  (∀ x y : Nat, 0 < y →
    egcd x y = ⟨(egcd y (x % y)).g, (egcd y (x % y)).t, (egcd y (x % y)).s - (x / y : Nat) * (egcd y (x % y)).t⟩)

/-- R102: for operands below `2^OPW` the divisor fits and both coefficients are `OPW`-bit two's-complement numbers; for
non-zero and different operands the pair is minimal, `|s| <= y / (2g)` and `|t| <= x / (2g)`. -/
def Obligations.BezoutBounds : Prop :=
  ∀ (c : Config) (x y : Nat), x < 2 ^ c.opw → y < 2 ^ c.opw →
    (egcd x y).g < 2 ^ c.opw ∧
    -(2 ^ (c.opw - 1) : Int) ≤ (egcd x y).s ∧ (egcd x y).s < 2 ^ (c.opw - 1) ∧
    -(2 ^ (c.opw - 1) : Int) ≤ (egcd x y).t ∧ (egcd x y).t < 2 ^ (c.opw - 1) ∧
    (0 < x → 0 < y → x ≠ y →
      2 * (egcd x y).g * (egcd x y).s.natAbs ≤ y ∧ 2 * (egcd x y).g * (egcd x y).t.natAbs ≤ x)

/-- R103: `GCD`. -/
def Obligations.GcdRule : Prop :=
  ∀ rd ra rb : RegIdx,
    decode (0x10#32 ||| placed rd 8 ||| placed ra 11 ||| placed rb 14) = .ok (.gcd rd ra rb) ∧
    ∀ s : State, ∃ t, exec (.gcd rd ra rb) s = .next t ∧ Completed .ok 0 t ∧ t.r[rd] = Nat.gcd s.r[ra] s.r[rb] ∧
      SameRegsBut rd s t ∧ SameOutsideModArith s t ∧ t.rnd = s.rnd

/-- `EGCD` (R104), with the identity its stored values satisfy; the word of coinciding destinations is illegal (R85). That
`exec` of such a command, to which no word decodes, completes with `ERR_ILLEGAL` is the model's (log entry 13). -/
def Obligations.EgcdRule : Prop :=
  ∀ rd rc re ra rb : RegIdx,
    ((rd ≠ rc ∧ rd ≠ re ∧ rc ≠ re) →
      decode (0x11#32 ||| placed rd 8 ||| placed ra 11 ||| placed rb 14 ||| placed rc 17 ||| placed re 20) =
        .ok (.egcd rd rc re ra rb) ∧
      ∀ s : State, ∃ t, exec (.egcd rd rc re ra rb) s = .next t ∧ Completed .ok 0 t ∧
        t.r[rd] = Nat.gcd s.r[ra] s.r[rb] ∧
        (t.r[rc] : Int) = (egcd s.r[ra] s.r[rb]).s % (2 ^ s.cfg.opw : Nat) ∧
        (t.r[re] : Int) = (egcd s.r[ra] s.r[rb]).t % (2 ^ s.cfg.opw : Nat) ∧
        (s.WidthsFit → (t.r[rc] * s.r[ra] + t.r[re] * s.r[rb]) % 2 ^ s.cfg.opw = t.r[rd]) ∧
        (∀ k : RegIdx, k ≠ rd → k ≠ rc → k ≠ re → t.r[k] = s.r[k]) ∧ SameOutsideModArith s t ∧ t.rnd = s.rnd) ∧
    (¬ (rd ≠ rc ∧ rd ≠ re ∧ rc ≠ re) →
      (∃ e, decode (0x11#32 ||| placed rd 8 ||| placed ra 11 ||| placed rb 14 ||| placed rc 17 ||| placed re 20) =
        .error e) ∧
      ∀ s : State, ∃ t, exec (.egcd rd rc re ra rb) s = .next t ∧ Completed .illegal 0 t ∧ SameButStatus s t)

/-- R105: `ModInverse` gives the inverse in `[0, n)` when there is one, and `NoInverse` otherwise. -/
def Obligations.ModInverseContract : Prop :=
  ∀ x n : Nat, 1 ≤ n →
    (modInverse x n = none ↔ Nat.gcd (x % n) n ≠ 1) ∧
    (∀ y, modInverse x n = some y ↔ y < n ∧ x * y % n = 1 % n)

/-- R106: `MODINV`: the inverse, or `ERR_MODULUS` for a zero modulus, or `ERR_NO_INVERSE`. -/
def Obligations.ModinvRule : Prop :=
  ∀ rd ra rb : RegIdx,
    decode (0x12#32 ||| placed rd 8 ||| placed ra 11 ||| placed rb 14) = .ok (.modinv rd ra rb) ∧
    ∀ s : State,
      (s.r[rb] = 0 → ∃ t, exec (.modinv rd ra rb) s = .next t ∧ Completed .modulus 0 t ∧ SameButStatus s t) ∧
      (s.r[rb] ≠ 0 → Nat.gcd (s.r[ra] % s.r[rb]) s.r[rb] ≠ 1 →
        ∃ t, exec (.modinv rd ra rb) s = .next t ∧ Completed .noInverse 0 t ∧ SameButStatus s t) ∧
      (s.r[rb] ≠ 0 → Nat.gcd (s.r[ra] % s.r[rb]) s.r[rb] = 1 →
        ∃ t, exec (.modinv rd ra rb) s = .next t ∧ Completed .ok 0 t ∧ t.r[rd] < s.r[rb] ∧
          s.r[ra] * t.r[rd] % s.r[rb] = 1 % s.r[rb] ∧ SameRegsBut rd s t ∧ SameOutsideModArith s t ∧ t.rnd = s.rnd)

/-- R107: `PowMod` is modular exponentiation, and by the Euler criterion its value at `(p - 1) / 2` is 1 for a residue and
`p - 1` for a non-residue. -/
def Obligations.PowModContract : Prop :=
  (∀ a e m : Nat, 1 ≤ m → powMod a e m = a ^ e % m) ∧
  (∀ n p : Nat, Nat.Prime p → p ≠ 2 → n % p ≠ 0 →
    (powMod n ((p - 1) / 2) p = 1 ∨ powMod n ((p - 1) / 2) p = p - 1) ∧
    ((∃ x, x * x % p = n % p) → powMod n ((p - 1) / 2) p = 1) ∧
    ((¬ ∃ x, x * x % p = n % p) → powMod n ((p - 1) / 2) p = p - 1))

/-- R7: `PRIMETAB` is an ascending initial run of the primes that holds 2 and 3; the reference table has 80 primes. -/
def Obligations.PrimeTableIsInitialPrimes : Prop :=
  (∀ (c : Config) (q : Nat), q ∈ primeTable c ↔ Nat.Prime q ∧ q ≤ max 3 c.primeMax) ∧
  (∀ c : Config, (primeTable c).Pairwise (· < ·)) ∧ (primeTable Config.reference).length = 80

/-- The facts of R108 that hold whatever the draws: no prime is rejected, a composite with a factor in the table always is,
and without rounds every other odd number is accepted. -/
def Obligations.PrimalityTestFacts : Prop :=
  ∀ (c : Config) (p rounds : Nat) (port : RndPort), 3 ≤ p → p % 2 = 1 →
    (Nat.Prime p → (isProbablePrime (primeTable c) p rounds port).1 = true) ∧
    (¬ Nat.Prime p → (∃ q ∈ primeTable c, q ∣ p) → (isProbablePrime (primeTable c) p rounds port).1 = false) ∧
    ((∀ q ∈ primeTable c, ¬ q ∣ p) → (isProbablePrime (primeTable c) p 0 port).1 = true)

/-- R110: `TonelliShanks` from any non-residue returns a root of a non-zero residue modulo an odd prime. -/
def Obligations.TonelliShanksFindsRoot : Prop :=
  ∀ p a z : Nat, Nat.Prime p → p ≠ 2 → 0 < a → a < p → (∃ x, x * x % p = a) → 0 < z → z < p → isNonResidue p z = true →
    ∃ r, tonelliShanks a p z = some r ∧ 1 ≤ r ∧ r ≤ p - 1 ∧ r * r % p = a

/-- R109 and R112 for a prime modulus: `SQRTMOD` completes, with the root 0, with no root and no register written, or with
the two roots in ascending order. That it completes whatever the random source holds rests on the fairness that R45 and R110
let a model assume, in the form of log entry 6. -/
def Obligations.SqrtmodPrimeRule : Prop :=
  ∀ (rd rc ra rb : RegIdx) (rounds : BitVec 8) (s : State), rd ≠ rc → Nat.Prime s.r[rb] → s.r[rb] ≠ 2 →
    ∃ t, exec (.sqrtmod rd rc ra rb rounds) s = .next t ∧ SameOutsideModArith s t ∧
      (∀ k : RegIdx, k ≠ rd → k ≠ rc → t.r[k] = s.r[k]) ∧
      (s.r[ra] % s.r[rb] = 0 → Completed .ok 1 t ∧ t.r[rd] = 0 ∧ SameRegsBut rd s t) ∧
      (s.r[ra] % s.r[rb] ≠ 0 → (¬ ∃ x : Nat, x * x % s.r[rb] = s.r[ra] % s.r[rb]) →
        Completed .ok 0 t ∧ SameRegs s t) ∧
      (s.r[ra] % s.r[rb] ≠ 0 → (∃ x : Nat, x * x % s.r[rb] = s.r[ra] % s.r[rb]) →
        Completed .ok 2 t ∧ t.r[rd] < t.r[rc] ∧ t.r[rd] + t.r[rc] = s.r[rb] ∧
        t.r[rd] * t.r[rd] % s.r[rb] = s.r[ra] % s.r[rb] ∧ t.r[rc] * t.r[rc] % s.r[rb] = s.r[ra] % s.r[rb])

/-- The moduli that R109 and R241 name are rejected with `ERR_MODULUS` and nothing written: below 3, even, or refused by the
primality test; a composite with a factor in `PRIMETAB` is refused whatever the draws (R108, R112). -/
def Obligations.SqrtmodRejectsModulus : Prop :=
  ∀ (rd rc ra rb : RegIdx) (rounds : BitVec 8) (s : State), rd ≠ rc →
    (s.r[rb] < 3 ∨ s.r[rb] % 2 = 0 ∨
      (isProbablePrime (primeTable s.cfg) s.r[rb] rounds.toNat s.rnd).1 = false ∨
      (¬ Nat.Prime s.r[rb] ∧ ∃ q ∈ primeTable s.cfg, q ∣ s.r[rb])) →
    ∃ t, exec (.sqrtmod rd rc ra rb rounds) s = .next t ∧ Completed .modulus 0 t ∧ SameButStatus s t

/-- For a prime modulus the outcome of `SQRTMOD` does not depend on what the random source answers: the result is a function
of `n` and `p` alone (R109). That both runs answer a next state whatever the sources hold rests on the fairness that R45 and
R110 let a model assume, in the form of log entry 6. -/
def Obligations.SqrtmodDrawIndependent : Prop :=
  ∀ (rd rc ra rb : RegIdx) (rounds : BitVec 8) (s : State) (port port' : RndPort), rd ≠ rc → Nat.Prime s.r[rb] →
    s.r[rb] ≠ 2 →
    ∃ t t', exec (.sqrtmod rd rc ra rb rounds) { s with rnd := port } = .next t ∧
      exec (.sqrtmod rd rc ra rb rounds) { s with rnd := port' } = .next t' ∧ t' = { t with rnd := t'.rnd }

/-- An odd composite modulus that the primality test accepts, of whatever size, stops the machine, as R111 says a model should
treat it (log entry 7). -/
def Obligations.SqrtmodAcceptedCompositeStops : Prop :=
  ∀ (rd rc ra rb : RegIdx) (rounds : BitVec 8) (s : State), rd ≠ rc → 3 ≤ s.r[rb] → s.r[rb] % 2 = 1 →
    ¬ Nat.Prime s.r[rb] →
    (isProbablePrime (primeTable s.cfg) s.r[rb] rounds.toNat s.rnd).1 = true →
    exec (.sqrtmod rd rc ra rb rounds) s = .fault .sqrtModCompositeModulus

/-! ## SHA-2 (41_sha2.md) -/

/-- R140: `SHA_INIT`. -/
def Obligations.ShaInitRule : Prop :=
  ∀ (alg : ShaMode), decode (0x20#32 ||| placed alg.code 8) = .ok (.shaInit alg) ∧
    ∀ s : State, ∃ t, exec (.shaInit alg) s = .next t ∧ Completed .ok 0 t ∧ t.smode = alg ∧ t.sh = shaIv alg ∧
      t.slen = 0 ∧ t.hact = false ∧ SameRmd s t ∧ SameKey s t ∧ SameBuffers s t ∧ SameOutsideHash s t

/-- R141: `SHA_BLOCK`: in a 32-bit mode the upper halves of `SH` are ignored and written as 0. -/
def Obligations.ShaBlockRule : Prop :=
  decode 0x21#32 = .ok .shaBlock ∧
  ∀ s : State, ∃ t, exec .shaBlock s = .next t ∧ Completed .ok 0 t ∧
    t.sh = shaCompress s.smode s.sh (msgBytes s (shaBlockLen s.smode)) ∧
    (ShaMode.isWide s.smode = false → (∀ i : Fin 8, t.sh[i].toNat < 2 ^ 32) ∧
      t.sh = shaCompress s.smode (chainOf (workOf 32 s.sh)) (msgBytes s (shaBlockLen s.smode))) ∧
    t.slen.toNat = (s.slen.toNat + shaBlockLen s.smode) % 2 ^ 64 ∧
    t.smode = s.smode ∧ t.hact = s.hact ∧ SameRmd s t ∧ SameKey s t ∧ SameBuffers s t ∧ SameOutsideHash s t

/-- R137: the padding is the tail, `0x80`, zeros and the big-endian bit length, cut into one block or two. -/
def Obligations.ShaPadRule : Prop :=
  ∀ (m : ShaMode) (tail : List Byte) (total : Nat), tail.length < shaBlockLen m →
    (∃ z, (shaPad m tail total).flatten =
      tail ++ 0x80 :: zeroBytes z ++ beBytes (shaLengthLen m) (8 * total % 2 ^ (8 * shaLengthLen m))) ∧
    (∀ blk ∈ shaPad m tail total, blk.length = shaBlockLen m) ∧
    (shaPad m tail total).length = if tail.length ≤ shaBlockLen m - shaLengthLen m - 1 then 1 else 2

/-- R142: `SHA_FINAL`: the padded tail is compressed, the digest goes to `DIG` with zeros after it; a tail of a block or
more is `ERR_PARAM`. -/
def Obligations.ShaFinalRule : Prop :=
  ∀ nbytes : BitVec 8, decode (0x22#32 ||| placed nbytes.toNat 16) = .ok (.shaFinal nbytes) ∧
    ∀ s : State,
      (shaBlockLen s.smode ≤ nbytes.toNat →
        ∃ t, exec (.shaFinal nbytes) s = .next t ∧ Completed .param 0 t ∧ SameButStatus s t) ∧
      (nbytes.toNat < shaBlockLen s.smode → Memory.wf s.mem = true →
        ∃ t, exec (.shaFinal nbytes) s = .next t ∧ Completed .ok 0 t ∧
          t.sh = (shaPad s.smode (msgBytes s nbytes.toNat) ((s.slen.toNat + nbytes.toNat) % 2 ^ 64)).foldl
            (shaCompress s.smode) s.sh ∧
          t.slen.toNat = (s.slen.toNat + nbytes.toNat) % 2 ^ 64 ∧
          (shaDigest s.smode t.sh).length = shaDigestLen s.smode ∧ DigestIs (shaDigest s.smode t.sh) t ∧
          SameBuffersButDigest s t ∧ t.smode = s.smode ∧ t.hact = s.hact ∧ SameRmd s t ∧ SameKey s t ∧
          SameOutsideHash s t)

/-- `SHA_INIT`, one `SHA_BLOCK` for each full block and `SHA_FINAL` with the tail compute `Sha2(mode, msg)` for every message
shorter than `2^64` bytes (R139): each command carries the engine from the message read so far to the next. -/
def Obligations.ShaStreamComputesHash : Prop :=
  (∀ (m : ShaMode) (s : State), ∃ t, exec (.shaInit m) s = .next t ∧ ShaHolds m [] t) ∧
  (∀ (m : ShaMode) (m0 : List Byte) (s : State), ShaHolds m m0 s →
    ∃ t, exec .shaBlock s = .next t ∧ ShaHolds m (m0 ++ msgBytes s (shaBlockLen m)) t) ∧
  (∀ (m : ShaMode) (m0 : List Byte) (nbytes : BitVec 8) (s : State), ShaHolds m m0 s → Memory.wf s.mem = true →
    nbytes.toNat < shaBlockLen m → m0.length + nbytes.toNat < 2 ^ 64 →
    ∃ t, exec (.shaFinal nbytes) s = .next t ∧ Completed .ok 0 t ∧
      DigestIs (hashOf (.sha m) (m0 ++ msgBytes s nbytes.toNat)) t)

/-! ## RIPEMD-160 (42_ripemd160.md) -/

/-- R168: `RMD_INIT`. -/
def Obligations.RmdInitRule : Prop :=
  decode 0x30#32 = .ok .rmdInit ∧
  ∀ s : State, ∃ t, exec .rmdInit s = .next t ∧ Completed .ok 0 t ∧ t.rh = rmdIv ∧ t.rlen = 0 ∧ t.hact = false ∧
    SameSha s t ∧ SameKey s t ∧ SameBuffers s t ∧ SameOutsideHash s t

/-- R169: `RMD_BLOCK`. -/
def Obligations.RmdBlockRule : Prop :=
  decode 0x31#32 = .ok .rmdBlock ∧
  ∀ s : State, ∃ t, exec .rmdBlock s = .next t ∧ Completed .ok 0 t ∧ t.rh = rmdCompress s.rh (msgBytes s 64) ∧
    t.rlen.toNat = (s.rlen.toNat + 64) % 2 ^ 64 ∧ t.hact = s.hact ∧ SameSha s t ∧ SameKey s t ∧ SameBuffers s t ∧
    SameOutsideHash s t

/-- R165: the padding of RIPEMD-160, with a little-endian bit length. -/
def Obligations.RmdPadRule : Prop :=
  ∀ (tail : List Byte) (total : Nat), tail.length < 64 →
    (∃ z, (rmdPad tail total).flatten = tail ++ 0x80 :: zeroBytes z ++ leBytes 8 (8 * total % 2 ^ 64)) ∧
    (∀ blk ∈ rmdPad tail total, blk.length = 64) ∧
    (rmdPad tail total).length = if tail.length ≤ 55 then 1 else 2

/-- R170: `RMD_FINAL`; a tail of 64 bytes or more is `ERR_PARAM`. -/
def Obligations.RmdFinalRule : Prop :=
  ∀ nbytes : BitVec 8, decode (0x32#32 ||| placed nbytes.toNat 16) = .ok (.rmdFinal nbytes) ∧
    ∀ s : State,
      (64 ≤ nbytes.toNat → ∃ t, exec (.rmdFinal nbytes) s = .next t ∧ Completed .param 0 t ∧ SameButStatus s t) ∧
      (nbytes.toNat < 64 → Memory.wf s.mem = true →
        ∃ t, exec (.rmdFinal nbytes) s = .next t ∧ Completed .ok 0 t ∧
          t.rh = (rmdPad (msgBytes s nbytes.toNat) ((s.rlen.toNat + nbytes.toNat) % 2 ^ 64)).foldl rmdCompress s.rh ∧
          t.rlen.toNat = (s.rlen.toNat + nbytes.toNat) % 2 ^ 64 ∧
          (rmdDigest t.rh).length = 20 ∧ DigestIs (rmdDigest t.rh) t ∧ SameBuffersButDigest s t ∧ t.hact = s.hact ∧
          SameSha s t ∧ SameKey s t ∧ SameOutsideHash s t)

/-- `RMD_INIT`, one `RMD_BLOCK` for each full block and `RMD_FINAL` with the tail compute `Rmd160(msg)` for every message
shorter than `2^64` bytes (R167). -/
def Obligations.RmdStreamComputesHash : Prop :=
  (∀ s : State, ∃ t, exec .rmdInit s = .next t ∧ RmdHolds [] t) ∧
  (∀ (m0 : List Byte) (s : State), RmdHolds m0 s →
    ∃ t, exec .rmdBlock s = .next t ∧ RmdHolds (m0 ++ msgBytes s rmdBlockLen) t) ∧
  (∀ (m0 : List Byte) (nbytes : BitVec 8) (s : State), RmdHolds m0 s → Memory.wf s.mem = true →
    nbytes.toNat < rmdBlockLen → m0.length + nbytes.toNat < 2 ^ 64 →
    ∃ t, exec (.rmdFinal nbytes) s = .next t ∧ Completed .ok 0 t ∧
      DigestIs (hashOf .rmd160 (m0 ++ msgBytes s nbytes.toNat)) t)

/-! ## HMAC (43_hmac.md) -/

/-- R183: the block key has exactly one block; a key of at most a block is zero-padded, never hashed or cut; a longer one is
hashed first. -/
def Obligations.BlockKeyRule : Prop :=
  ∀ (alg : Alg) (key : List Byte),
    (blockKeyOf alg key).length = algBlockLen alg ∧
    (key.length ≤ algBlockLen alg → blockKeyOf alg key = key ++ zeroBytes (algBlockLen alg - key.length)) ∧
    (algBlockLen alg < key.length →
      blockKeyOf alg key = hashOf alg key ++ zeroBytes (algBlockLen alg - (hashOf alg key).length))

/-- R184: `HMAC_INIT`; an `alg` above 4 is illegal, a key length above 128 is `ERR_PARAM`, and the engine that `alg` does
not select is untouched. -/
def Obligations.HmacInitRule : Prop :=
  (∀ (n : Nat) (klen : BitVec 8), 4 < n → n < 8 →
    decode (0x40#32 ||| placed n 8 ||| placed klen.toNat 16) = .error .badOperands) ∧
  ∀ (alg : Alg) (klen : BitVec 8),
    decode (0x40#32 ||| placed alg.code 8 ||| placed klen.toNat 16) = .ok (.hmacInit alg klen) ∧
    ∀ s : State,
      (128 < klen.toNat → ∃ t, exec (.hmacInit alg klen) s = .next t ∧ Completed .param 0 t ∧ SameButStatus s t) ∧
      (klen.toNat ≤ 128 → ∃ t, exec (.hmacInit alg klen) s = .next t ∧ Completed .ok 0 t ∧ t.hact = true ∧
        t.halg = alg ∧
        (∀ i, i < 128 → readByte t.hk0 i = (blockKeyOf alg (keyBytes s klen.toNat)).getD i 0) ∧
        (∀ m, alg = .sha m → t.smode = m ∧ t.slen = BitVec.ofNat 64 (shaBlockLen m) ∧
          t.sh = shaCompress m (shaIv m) (xorBytes ipad (blockKeyOf alg (keyBytes s klen.toNat))) ∧ SameRmd s t) ∧
        (alg = .rmd160 → t.rlen = 64 ∧
          t.rh = rmdCompress rmdIv (xorBytes ipad (blockKeyOf alg (keyBytes s klen.toNat))) ∧ SameSha s t) ∧
        SameBuffers s t ∧ SameOutsideHash s t)

/-- R186: `HMAC_FINAL`: `ERR_SEQ` when none is open, then `ERR_PARAM`, else the two hashes finished, the digest in `DIG`,
`HACT` cleared and `HALG` and `HK0` kept. -/
def Obligations.HmacFinalRule : Prop :=
  ∀ nbytes : BitVec 8, decode (0x41#32 ||| placed nbytes.toNat 16) = .ok (.hmacFinal nbytes) ∧
    ∀ s : State,
      (s.hact = false → ∃ t, exec (.hmacFinal nbytes) s = .next t ∧ Completed .seq 0 t ∧ SameButStatus s t) ∧
      (s.hact = true → algBlockLen s.halg ≤ nbytes.toNat →
        ∃ t, exec (.hmacFinal nbytes) s = .next t ∧ Completed .param 0 t ∧ SameButStatus s t) ∧
      (s.hact = true → nbytes.toNat < algBlockLen s.halg → Memory.wf s.mem = true →
        ∃ t, exec (.hmacFinal nbytes) s = .next t ∧ Completed .ok 0 t ∧ t.hact = false ∧ SameKey s t ∧
          (∀ m, s.halg = .sha m →
            ∃ inner, inner = shaDigest m ((shaPad m (msgBytes s nbytes.toNat)
                ((s.slen.toNat + nbytes.toNat) % 2 ^ 64)).foldl (shaCompress m) s.sh) ∧
              t.sh = (shaPad m inner (shaBlockLen m + shaDigestLen m)).foldl (shaCompress m)
                (shaCompress m (shaIv m) (xorBytes opad (latchedKey s (shaBlockLen m)))) ∧
              (shaPad m inner (shaBlockLen m + shaDigestLen m)).length = 1 ∧
              DigestIs (shaDigest m t.sh) t ∧ t.smode = m ∧ t.slen = BitVec.ofNat 64 (shaBlockLen m + shaDigestLen m) ∧
              SameRmd s t) ∧
          (s.halg = .rmd160 →
            ∃ inner, inner = rmdDigest ((rmdPad (msgBytes s nbytes.toNat)
                ((s.rlen.toNat + nbytes.toNat) % 2 ^ 64)).foldl rmdCompress s.rh) ∧
              t.rh = (rmdPad inner 84).foldl rmdCompress (rmdCompress rmdIv (xorBytes opad (latchedKey s 64))) ∧
              (rmdPad inner 84).length = 1 ∧ DigestIs (rmdDigest t.rh) t ∧ t.rlen = 84 ∧ SameSha s t) ∧
          SameBuffersButDigest s t ∧ SameOutsideHash s t)

/-- `HMAC_INIT`, the selected engine's block command for each full block and `HMAC_FINAL` with the tail compute
`Hmac(alg, key, msg)` of R182, for each of the five hashes (R184, R185, R186). -/
def Obligations.HmacStreamComputesHmac : Prop :=
  (∀ (alg : Alg) (klen : BitVec 8) (s : State), klen.toNat ≤ 128 →
    ∃ t, exec (.hmacInit alg klen) s = .next t ∧ HmacHolds alg (keyBytes s klen.toNat) [] t) ∧
  (∀ (m : ShaMode) (key m0 : List Byte) (s : State), HmacHolds (.sha m) key m0 s →
    ∃ t, exec .shaBlock s = .next t ∧ HmacHolds (.sha m) key (m0 ++ msgBytes s (shaBlockLen m)) t) ∧
  (∀ (key m0 : List Byte) (s : State), HmacHolds .rmd160 key m0 s →
    ∃ t, exec .rmdBlock s = .next t ∧ HmacHolds .rmd160 key (m0 ++ msgBytes s rmdBlockLen) t) ∧
  (∀ (alg : Alg) (key m0 : List Byte) (nbytes : BitVec 8) (s : State), HmacHolds alg key m0 s →
    Memory.wf s.mem = true → nbytes.toNat < algBlockLen alg → algBlockLen alg + m0.length + nbytes.toNat < 2 ^ 64 →
    ∃ t, exec (.hmacFinal nbytes) s = .next t ∧ Completed .ok 0 t ∧ t.hact = false ∧
      DigestIs (hmacOf alg key (m0 ++ msgBytes s nbytes.toNat)) t)

/-! ## Elliptic curves (44_ec.md) -/

/-- R201: with `CP = 0` every EC command but `EC_LDG` ends in `ERR_MODULUS` with nothing changed; with `CP ≠ 0`, 1 among
them, none of them does, and `EC_LDG` never does. -/
def Obligations.EcModulusRule : Prop :=
  ∀ (pd pa pb : PtIdx) (rk : RegIdx) (s : State),
    (∀ i ∈ [Instr.ecOncurve pa, .ecAdd pd pa pb, .ecDbl pd pa, .ecMul pd pa rk, .ecNeg pd pa],
      (s.cp = 0 → ∃ t, exec i s = .next t ∧ Completed .modulus 0 t ∧ SameButStatus s t) ∧
      (s.cp ≠ 0 → ∃ t, exec i s = .next t ∧ t.err ≠ .modulus)) ∧
    ∃ t, exec (.ecLdg pd) s = .next t ∧ t.err = .ok

/-- R203 and R209: `EC_ONCURVE` reports in `RES` whether the point is infinity or a reduced pair on the curve; no register
is written. -/
def Obligations.EcOncurveRule : Prop :=
  ∀ pa : PtIdx, decode (0x50#32 ||| placed pa 11) = .ok (.ecOncurve pa) ∧
    ∀ s : State,
      (s.cp = 0 → ∃ t, exec (.ecOncurve pa) s = .next t ∧ Completed .modulus 0 t ∧ SameButStatus s t) ∧
      (s.cp ≠ 0 → ∃ t res, exec (.ecOncurve pa) s = .next t ∧ Completed .ok res t ∧
        (res = 1 ↔ (s.pt[pa].inf = true ∨ s.pt[pa].x < s.cp ∧ s.pt[pa].y < s.cp ∧
          s.pt[pa].y ^ 2 % s.cp = (s.pt[pa].x ^ 3 + s.ca * s.pt[pa].x + s.cb) % s.cp)) ∧
        (res = 0 ∨ res = 1) ∧ SamePoints s t ∧ SameOutsideEc s t)

/-- R204: `EcDouble`: failure off the curve, infinity, the vertical tangent, the tangent rule as congruences, and no
`NoInverse` over an odd prime. -/
def Obligations.EcDoubleContract : Prop :=
  ∀ c : Curve, 0 < c.p →
    (∀ p, isOnCurve c p = false → ecDouble c p = .error .notOnCurve) ∧ ecDouble c .inf = .ok .inf ∧
    (Nat.Prime c.p → c.p ≠ 2 → ∀ p, ecDouble c p ≠ .error .noInverse) ∧
    ∀ x y : Nat, isOnCurve c (.affine x y) = true →
      (y = 0 → ecDouble c (.affine x y) = .ok .inf) ∧
      (y ≠ 0 → Nat.gcd (2 * y % c.p) c.p ≠ 1 → ecDouble c (.affine x y) = .error .noInverse) ∧
      (y ≠ 0 → Nat.gcd (2 * y % c.p) c.p = 1 → ∃ lam x3 y3 : Nat, ecDouble c (.affine x y) = .ok (.affine x3 y3) ∧
        x3 < c.p ∧ y3 < c.p ∧ (lam : Int) * (2 * y) ≡ 3 * x ^ 2 + c.a [ZMOD c.p] ∧
        (x3 : Int) ≡ lam ^ 2 - 2 * x [ZMOD c.p] ∧ (y3 : Int) ≡ lam * (x - x3) - y [ZMOD c.p])

/-- R205: `EcAdd`: failure off the curve, the identity laws, the vertical chord, equal points, and the chord rule as
congruences. -/
def Obligations.EcAddContract : Prop :=
  ∀ c : Curve, 0 < c.p →
    (∀ p q, isOnCurve c p = false ∨ isOnCurve c q = false → ecAdd c p q = .error .notOnCurve) ∧
    (∀ p, isOnCurve c p = true → ecAdd c .inf p = .ok p ∧ ecAdd c p .inf = .ok p) ∧
    ∀ x1 y1 x2 y2 : Nat, isOnCurve c (.affine x1 y1) = true → isOnCurve c (.affine x2 y2) = true →
      (x1 = x2 → y1 = y2 → ecAdd c (.affine x1 y1) (.affine x2 y2) = ecDouble c (.affine x1 y1)) ∧
      (x1 = x2 → y1 ≠ y2 → ecAdd c (.affine x1 y1) (.affine x2 y2) = .ok .inf) ∧
      (x1 ≠ x2 → Int.gcd ((x2 : Int) - x1) c.p ≠ 1 → ecAdd c (.affine x1 y1) (.affine x2 y2) = .error .noInverse) ∧
      (x1 ≠ x2 → Int.gcd ((x2 : Int) - x1) c.p = 1 →
        ∃ lam x3 y3 : Nat, ecAdd c (.affine x1 y1) (.affine x2 y2) = .ok (.affine x3 y3) ∧
        x3 < c.p ∧ y3 < c.p ∧ (lam : Int) * (x2 - x1) ≡ y2 - y1 [ZMOD c.p] ∧
        (x3 : Int) ≡ lam ^ 2 - x1 - x2 [ZMOD c.p] ∧ (y3 : Int) ≡ lam * (x1 - x3) - y1 [ZMOD c.p])

/-- R207: `EcMul` fails off the curve for every scalar, reduces the scalar modulo `p`, gives infinity for 0 and for the
point at infinity, and is double-and-add from the most significant bit, in which the first failing step decides. -/
def Obligations.EcMulContract : Prop :=
  ∀ (c : Curve) (pt : Point), 0 < c.p →
    (isOnCurve c pt = false → ∀ k, ecMul c k pt = .error .notOnCurve) ∧
    (∀ k, ecMul c k pt = ecMul c (k % c.p) pt) ∧ (∀ k, ecMul c k .inf = .ok .inf) ∧
    (isOnCurve c pt = true →
      ecMul c 0 pt = .ok .inf ∧ ecMul c c.p pt = .ok .inf ∧ (1 < c.p → ecMul c (c.p + 1) pt = .ok pt) ∧
      ∀ k, 0 < k → k < c.p →
        ecMul c k pt =
          (ecMul c (k / 2) pt >>= fun r => ecDouble c r >>= fun d => if k % 2 = 1 then ecAdd c d pt else .ok d))

/-- Over an odd prime field, adding, doubling and multiplying on-curve points always gives an on-curve point: `NoInverse`
cannot occur (R204, R208). -/
def Obligations.EcClosedOverPrimeField : Prop :=
  ∀ (c : Curve) (p q : Point) (k : Nat), Nat.Prime c.p → c.p ≠ 2 → isOnCurve c p = true → isOnCurve c q = true →
    (∃ r, ecDouble c p = .ok r ∧ isOnCurve c r = true) ∧ (∃ r, ecAdd c p q = .ok r ∧ isOnCurve c r = true) ∧
    (∃ r, ecMul c k p = .ok r ∧ isOnCurve c r = true)

/-- A point and its negation are both on the curve and add to infinity, over any odd modulus; over an odd prime field
addition is commutative (R206, R208). -/
def Obligations.EcNegationAndCommutativity : Prop :=
  (∀ (c : Curve) (p : Point), c.p % 2 = 1 → isOnCurve c p = true →
    isOnCurve c (ecNegate c p) = true ∧ ecAdd c p (ecNegate c p) = .ok .inf) ∧
  (∀ (c : Curve) (p q : Point), Nat.Prime c.p → c.p ≠ 2 → isOnCurve c p = true → isOnCurve c q = true →
    ecAdd c p q = ecAdd c q p)

/-- `EC_ADD`, `EC_DBL` and `EC_MUL` over an odd prime field complete with the sum, the double or the multiple in `PT[pd]`
and change nothing else (R210, R211, R212). -/
def Obligations.EcGroupCommandsComplete : Prop :=
  ∀ (pd pa pb : PtIdx) (rk : RegIdx) (s : State), Nat.Prime s.cp → s.cp ≠ 2 →
    isOnCurve (curveOf s) (readPoint s pa) = true →
    (∃ t, exec (.ecDbl pd pa) s = .next t ∧ Completed .ok 0 t ∧
      ecDouble (curveOf s) (readPoint s pa) = .ok (readPoint t pd) ∧ isOnCurve (curveOf t) (readPoint t pd) = true ∧
      SamePointsBut pd s t ∧ SameOutsideEc s t) ∧
    (∃ t, exec (.ecMul pd pa rk) s = .next t ∧ Completed .ok 0 t ∧
      ecMul (curveOf s) s.r[rk] (readPoint s pa) = .ok (readPoint t pd) ∧
      isOnCurve (curveOf t) (readPoint t pd) = true ∧ SamePointsBut pd s t ∧ SameOutsideEc s t) ∧
    (isOnCurve (curveOf s) (readPoint s pb) = true →
      ∃ t, exec (.ecAdd pd pa pb) s = .next t ∧ Completed .ok 0 t ∧
        ecAdd (curveOf s) (readPoint s pa) (readPoint s pb) = .ok (readPoint t pd) ∧
        isOnCurve (curveOf t) (readPoint t pd) = true ∧ SamePointsBut pd s t ∧ SameOutsideEc s t)

/-- R202, R210, R211 and R212: `EC_ADD`, `EC_DBL` and `EC_MUL` for every modulus: 0 is `ERR_MODULUS`; else what the point
function gives goes to `PT[pd]`, with zero coordinates when it is infinity, and a failure becomes its error code with nothing
changed. -/
def Obligations.EcGroupCommandRules : Prop :=
  ∀ (pd pa pb : PtIdx) (rk : RegIdx),
    decode (0x51#32 ||| placed pd 8 ||| placed pa 11 ||| placed pb 14) = .ok (.ecAdd pd pa pb) ∧
    decode (0x52#32 ||| placed pd 8 ||| placed pa 11) = .ok (.ecDbl pd pa) ∧
    decode (0x53#32 ||| placed pd 8 ||| placed pa 11 ||| placed rk 17) = .ok (.ecMul pd pa rk) ∧
    ∀ (s : State) (i : Instr) (r : Except EcError Point),
      (i = .ecAdd pd pa pb ∧ r = ecAdd (curveOf s) (readPoint s pa) (readPoint s pb) ∨
        i = .ecDbl pd pa ∧ r = ecDouble (curveOf s) (readPoint s pa) ∨
        i = .ecMul pd pa rk ∧ r = ecMul (curveOf s) s.r[rk] (readPoint s pa)) →
      (s.cp = 0 → ∃ t, exec i s = .next t ∧ Completed .modulus 0 t ∧ SameButStatus s t) ∧
      (s.cp ≠ 0 → r = .error .notOnCurve →
        ∃ t, exec i s = .next t ∧ Completed .notOnCurve 0 t ∧ SameButStatus s t) ∧
      (s.cp ≠ 0 → r = .error .noInverse →
        ∃ t, exec i s = .next t ∧ Completed .noInverse 0 t ∧ SameButStatus s t) ∧
      (s.cp ≠ 0 → r = .ok .inf → ∃ t, exec i s = .next t ∧ Completed .ok 0 t ∧ t.pt[pd] = ⟨0, 0, true⟩ ∧
        SamePointsBut pd s t ∧ SameOutsideEc s t) ∧
      (∀ x y, s.cp ≠ 0 → r = .ok (.affine x y) → ∃ t, exec i s = .next t ∧ Completed .ok 0 t ∧
        t.pt[pd] = ⟨x, y, false⟩ ∧ SamePointsBut pd s t ∧ SameOutsideEc s t)

/-- R206 and R213: `EC_NEG` negates the ordinate modulo `p`, copies the abscissa unchanged, keeps infinity, and makes no
on-curve test. -/
def Obligations.EcNegRule : Prop :=
  ∀ pd pa : PtIdx, decode (0x54#32 ||| placed pd 8 ||| placed pa 11) = .ok (.ecNeg pd pa) ∧
    ∀ s : State,
      (s.cp = 0 → ∃ t, exec (.ecNeg pd pa) s = .next t ∧ Completed .modulus 0 t ∧ SameButStatus s t) ∧
      (s.cp ≠ 0 → ∃ t, exec (.ecNeg pd pa) s = .next t ∧ Completed .ok 0 t ∧
        (s.pt[pa].inf = true → t.pt[pd] = ⟨0, 0, true⟩) ∧
        (s.pt[pa].inf = false → t.pt[pd].inf = false ∧ t.pt[pd].x = s.pt[pa].x ∧
          t.pt[pd].y = if s.pt[pa].y % s.cp = 0 then 0 else s.cp - s.pt[pa].y % s.cp) ∧
        SamePointsBut pd s t ∧ SameOutsideEc s t)

/-- R214: `EC_LDG` copies the base point, checks nothing and does not read `CP`. -/
def Obligations.EcLdgRule : Prop :=
  ∀ pd : PtIdx, decode (0x55#32 ||| placed pd 8) = .ok (.ecLdg pd) ∧
    ∀ s : State, ∃ t, exec (.ecLdg pd) s = .next t ∧ Completed .ok 0 t ∧ t.pt[pd] = ⟨s.gx, s.gy, false⟩ ∧
      SamePointsBut pd s t ∧ SameOutsideEc s t
end

