-- ==== Sys2Proof/Laws/Memory.lean ====
section
/-! SUPPORT. Laws/Memory.lean: the laws of byte memory: reading after writing, and that every operation keeps the canonical
form. -/

namespace Sys2Proof.Machine

/-! ## The canonical form -/

theorem wfFrom_mono {lo lo' : Nat} (h : lo' ≤ lo) : ∀ {m : Memory}, wfFrom lo m = true → wfFrom lo' m = true
  | [], _ => rfl
  | (a, b) :: m, hw => by
    simp only [wfFrom, Bool.and_eq_true, decide_eq_true_eq] at hw ⊢
    exact ⟨⟨h.trans hw.1.1, hw.1.2⟩, hw.2⟩

theorem readByte_of_wfFrom_lt {x : Nat} : ∀ {lo : Nat} {m : Memory}, wfFrom lo m = true → x < lo →
    readByte m x = unlistedByte
  | _, [], _, _ => rfl
  | lo, (a, b) :: m, hw, hx => by
    simp only [wfFrom, Bool.and_eq_true, decide_eq_true_eq] at hw
    have hne : a ≠ x := by omega
    simp only [readByte, hne, if_false]
    exact readByte_of_wfFrom_lt hw.2 (by omega)

theorem writeByte_wfFrom {x : Nat} {v : Byte} : ∀ {lo : Nat} {m : Memory}, wfFrom lo m = true → lo ≤ x →
    wfFrom lo (writeByte m x v) = true
  | lo, [], _, hx => by
    by_cases hv : v = unlistedByte <;> simp [writeByte, wfFrom, hv, hx]
  | lo, (a, b) :: m, hw, hx => by
    have hw0 := hw
    simp only [wfFrom, Bool.and_eq_true, decide_eq_true_eq] at hw
    unfold writeByte
    split_ifs with h1 h2 h3 h4
    · exact hw0
    · simp only [wfFrom, Bool.and_eq_true, decide_eq_true_eq]
      refine ⟨⟨hx, by simpa using h2⟩, ⟨by omega, hw.1.2⟩, hw.2⟩
    · exact wfFrom_mono (by omega) hw.2
    · simp only [wfFrom, Bool.and_eq_true, decide_eq_true_eq]
      subst h3
      exact ⟨⟨hx, by simpa using h4⟩, hw.2⟩
    · simp only [wfFrom, Bool.and_eq_true, decide_eq_true_eq]
      exact ⟨hw.1, writeByte_wfFrom hw.2 (by omega)⟩

/-- Writing a byte keeps the canonical form. -/
theorem writeByte_wf {m : Memory} (x : Nat) (v : Byte) (h : Memory.wf m = true) : Memory.wf (writeByte m x v) = true :=
  writeByte_wfFrom h (Nat.zero_le x)

/-- Writing a byte string keeps the canonical form. -/
theorem storeBytes_wf : ∀ (bs : List Byte) {m : Memory} (base : Nat), Memory.wf m = true →
    Memory.wf (storeBytes m base bs) = true
  | [], _, _, h => h
  | b :: bs, _, base, h => storeBytes_wf bs (base + 1) (writeByte_wf base b h)

/-! ## Reading after writing -/

/-- A byte reads as what was last written to it. -/
theorem readByte_writeByte_same {x : Nat} {v : Byte} : ∀ {lo : Nat} {m : Memory}, wfFrom lo m = true →
    readByte (writeByte m x v) x = v
  | _, [], _ => by by_cases hv : v = unlistedByte <;> simp [writeByte, readByte, hv]
  | lo, (a, b) :: m, hw => by
    simp only [wfFrom, Bool.and_eq_true, decide_eq_true_eq] at hw
    unfold writeByte
    split_ifs with h1 h2 h3 h4
    · rw [h2]
      have hne : a ≠ x := by omega
      simp only [readByte, hne, if_false]
      exact readByte_of_wfFrom_lt hw.2 (by omega)
    · simp [readByte]
    · rw [h4]
      exact readByte_of_wfFrom_lt hw.2 (by omega)
    · simp [readByte]
    · have hne : a ≠ x := fun h => h3 h.symm
      simp only [readByte, hne, if_false]
      exact readByte_writeByte_same hw.2

/-- A write leaves every other byte alone. -/
theorem readByte_writeByte_ne {x y : Nat} {v : Byte} (hy : y ≠ x) : ∀ (m : Memory),
    readByte (writeByte m x v) y = readByte m y
  | [] => by
    have h : x ≠ y := fun h => hy h.symm
    by_cases hv : v = unlistedByte <;> simp [writeByte, readByte, hv, h]
  | (a, b) :: m => by
    have h : x ≠ y := fun h => hy h.symm
    unfold writeByte
    split_ifs with h1 h2 h3 h4
    · rfl
    · simp [readByte, h]
    · subst h3; simp [readByte, h]
    · subst h3; simp [readByte, h]
    · simp only [readByte]
      split_ifs
      · rfl
      · exact readByte_writeByte_ne hy m

/-- Bytes outside a stored string are unchanged. -/
theorem readByte_storeBytes_outside {a : Nat} : ∀ (bs : List Byte) (m : Memory) (base : Nat),
    (a < base ∨ base + bs.length ≤ a) → readByte (storeBytes m base bs) a = readByte m a
  | [], _, _, _ => rfl
  | b :: bs, m, base, h => by
    simp only [List.length_cons] at h
    rw [storeBytes, readByte_storeBytes_outside bs _ _ (by omega), readByte_writeByte_ne (by omega)]

/-- Bytes inside a stored string are the string's. -/
theorem readByte_storeBytes_inside : ∀ (bs : List Byte) (m : Memory) (base i : Nat), Memory.wf m = true →
    i < bs.length → readByte (storeBytes m base bs) (base + i) = bs.getD i 0
  | [], _, _, _, _, h => by simp at h
  | b :: bs, m, base, 0, hw, _ => by
    rw [storeBytes, readByte_storeBytes_outside bs _ _ (by omega)]
    exact readByte_writeByte_same hw
  | b :: bs, m, base, i + 1, hw, h => by
    have := readByte_storeBytes_inside bs (writeByte m base b) (base + 1) i (writeByte_wf base b hw) (by simpa using h)
    rw [storeBytes, show base + (i + 1) = base + 1 + i by omega, this]
    rfl

/-- A loaded string has the length asked for. -/
@[simp] theorem length_loadBytes (m : Memory) : ∀ (n base : Nat), (loadBytes m base n).length = n
  | 0, _ => rfl
  | n + 1, base => by simp [loadBytes, length_loadBytes m n]

/-! ## The range of the listed addresses -/

theorem writeByte_within {lo hi x : Nat} {v : Byte} (hx : lo ≤ x ∧ x < hi) : ∀ {m : Memory},
    withinRange m lo hi = true → withinRange (writeByte m x v) lo hi = true
  | [], _ => by
    by_cases hv : v = unlistedByte <;> simp [writeByte, withinRange, hv, hx]
  | (a, b) :: m, h => by
    have h0 := h
    simp only [withinRange, List.all_cons, Bool.and_eq_true, decide_eq_true_eq] at h
    unfold writeByte
    split_ifs
    · exact h0
    · simp only [withinRange, List.all_cons, Bool.and_eq_true, decide_eq_true_eq]
      exact ⟨hx, h⟩
    · exact h.2
    · simp only [withinRange, List.all_cons, Bool.and_eq_true, decide_eq_true_eq]
      exact ⟨hx, h.2⟩
    · have := writeByte_within (v := v) hx h.2
      simp only [withinRange, List.all_cons, Bool.and_eq_true, decide_eq_true_eq] at this ⊢
      exact ⟨h.1, this⟩

/-- Storing inside a range lists no address outside it. -/
theorem storeBytes_within {lo hi : Nat} : ∀ (bs : List Byte) {m : Memory} (base : Nat), lo ≤ base →
    base + bs.length ≤ hi → withinRange m lo hi = true → withinRange (storeBytes m base bs) lo hi = true
  | [], _, _, _, _, h => h
  | b :: bs, _, base, hlo, hhi, h => by
    simp only [List.length_cons] at hhi
    exact storeBytes_within bs (base + 1) (by omega) (by omega) (writeByte_within ⟨hlo, by omega⟩ h)

end Sys2Proof.Machine
end

