-- ==== Sys2Proof/Laws/State.lean ====
section
/-! SUPPORT. Laws/State.lean: for every named update of the state, what each field holds after it, so that no proof unfolds
a record update. -/

namespace Sys2Proof.Machine

/-! ## accept -/

section

variable (w : Word) (s : State)

@[simp] theorem accept_cfg : (accept w s).cfg = s.cfg := rfl
@[simp] theorem accept_r : (accept w s).r = s.r := rfl
@[simp] theorem accept_pt : (accept w s).pt = s.pt := rfl
@[simp] theorem accept_cp : (accept w s).cp = s.cp := rfl
@[simp] theorem accept_ca : (accept w s).ca = s.ca := rfl
@[simp] theorem accept_cb : (accept w s).cb = s.cb := rfl
@[simp] theorem accept_gx : (accept w s).gx = s.gx := rfl
@[simp] theorem accept_gy : (accept w s).gy = s.gy := rfl
@[simp] theorem accept_cn : (accept w s).cn = s.cn := rfl
@[simp] theorem accept_cmdreg : (accept w s).cmdreg = w := rfl
@[simp] theorem accept_busy : (accept w s).busy = true := rfl
@[simp] theorem accept_done : (accept w s).done = false := rfl
@[simp] theorem accept_err : (accept w s).err = .ok := rfl
@[simp] theorem accept_res : (accept w s).res = 0 := rfl
@[simp] theorem accept_hact : (accept w s).hact = s.hact := rfl
@[simp] theorem accept_halg : (accept w s).halg = s.halg := rfl
@[simp] theorem accept_ie : (accept w s).ie = s.ie := rfl
@[simp] theorem accept_faultWbusy : (accept w s).faultWbusy = s.faultWbusy := rfl
@[simp] theorem accept_faultBadaddr : (accept w s).faultBadaddr = s.faultBadaddr := rfl
@[simp] theorem accept_mem : (accept w s).mem = s.mem := rfl
@[simp] theorem accept_sh : (accept w s).sh = s.sh := rfl
@[simp] theorem accept_slen : (accept w s).slen = s.slen := rfl
@[simp] theorem accept_smode : (accept w s).smode = s.smode := rfl
@[simp] theorem accept_rh : (accept w s).rh = s.rh := rfl
@[simp] theorem accept_rlen : (accept w s).rlen = s.rlen := rfl
@[simp] theorem accept_hk0 : (accept w s).hk0 = s.hk0 := rfl
@[simp] theorem accept_turns : (accept w s).turns = s.turns := rfl
@[simp] theorem accept_rnd : (accept w s).rnd = s.rnd := rfl
@[simp] theorem accept_busyReads : (accept w s).busyReads = s.busyReads := rfl
@[simp] theorem accept_rdata : (accept w s).rdata = s.rdata := rfl

end

/-! ## finish -/

section

variable (e : ErrCode) (k : BitVec 2) (s : State)

@[simp] theorem finish_cfg : (finish e k s).cfg = s.cfg := rfl
@[simp] theorem finish_r : (finish e k s).r = s.r := rfl
@[simp] theorem finish_pt : (finish e k s).pt = s.pt := rfl
@[simp] theorem finish_cp : (finish e k s).cp = s.cp := rfl
@[simp] theorem finish_ca : (finish e k s).ca = s.ca := rfl
@[simp] theorem finish_cb : (finish e k s).cb = s.cb := rfl
@[simp] theorem finish_gx : (finish e k s).gx = s.gx := rfl
@[simp] theorem finish_gy : (finish e k s).gy = s.gy := rfl
@[simp] theorem finish_cn : (finish e k s).cn = s.cn := rfl
@[simp] theorem finish_cmdreg : (finish e k s).cmdreg = s.cmdreg := rfl
@[simp] theorem finish_busy : (finish e k s).busy = false := rfl
@[simp] theorem finish_done : (finish e k s).done = true := rfl
@[simp] theorem finish_err : (finish e k s).err = e := rfl
@[simp] theorem finish_res : (finish e k s).res = k := rfl
@[simp] theorem finish_hact : (finish e k s).hact = s.hact := rfl
@[simp] theorem finish_halg : (finish e k s).halg = s.halg := rfl
@[simp] theorem finish_ie : (finish e k s).ie = s.ie := rfl
@[simp] theorem finish_faultWbusy : (finish e k s).faultWbusy = s.faultWbusy := rfl
@[simp] theorem finish_faultBadaddr : (finish e k s).faultBadaddr = s.faultBadaddr := rfl
@[simp] theorem finish_mem : (finish e k s).mem = s.mem := rfl
@[simp] theorem finish_sh : (finish e k s).sh = s.sh := rfl
@[simp] theorem finish_slen : (finish e k s).slen = s.slen := rfl
@[simp] theorem finish_smode : (finish e k s).smode = s.smode := rfl
@[simp] theorem finish_rh : (finish e k s).rh = s.rh := rfl
@[simp] theorem finish_rlen : (finish e k s).rlen = s.rlen := rfl
@[simp] theorem finish_hk0 : (finish e k s).hk0 = s.hk0 := rfl
@[simp] theorem finish_turns : (finish e k s).turns = s.turns := rfl
@[simp] theorem finish_rnd : (finish e k s).rnd = s.rnd := rfl
@[simp] theorem finish_busyReads : (finish e k s).busyReads = s.busyReads := rfl
@[simp] theorem finish_rdata : (finish e k s).rdata = s.rdata := rfl

end

/-! ## writeReg -/

section

variable (i : RegIdx) (v : Nat) (s : State)

@[simp] theorem writeReg_cfg : (writeReg i v s).cfg = s.cfg := rfl
@[simp] theorem writeReg_r : (writeReg i v s).r = s.r.set i v := rfl
@[simp] theorem writeReg_pt : (writeReg i v s).pt = s.pt := rfl
@[simp] theorem writeReg_cp : (writeReg i v s).cp = s.cp := rfl
@[simp] theorem writeReg_ca : (writeReg i v s).ca = s.ca := rfl
@[simp] theorem writeReg_cb : (writeReg i v s).cb = s.cb := rfl
@[simp] theorem writeReg_gx : (writeReg i v s).gx = s.gx := rfl
@[simp] theorem writeReg_gy : (writeReg i v s).gy = s.gy := rfl
@[simp] theorem writeReg_cn : (writeReg i v s).cn = s.cn := rfl
@[simp] theorem writeReg_cmdreg : (writeReg i v s).cmdreg = s.cmdreg := rfl
@[simp] theorem writeReg_busy : (writeReg i v s).busy = s.busy := rfl
@[simp] theorem writeReg_done : (writeReg i v s).done = s.done := rfl
@[simp] theorem writeReg_err : (writeReg i v s).err = s.err := rfl
@[simp] theorem writeReg_res : (writeReg i v s).res = s.res := rfl
@[simp] theorem writeReg_hact : (writeReg i v s).hact = s.hact := rfl
@[simp] theorem writeReg_halg : (writeReg i v s).halg = s.halg := rfl
@[simp] theorem writeReg_ie : (writeReg i v s).ie = s.ie := rfl
@[simp] theorem writeReg_faultWbusy : (writeReg i v s).faultWbusy = s.faultWbusy := rfl
@[simp] theorem writeReg_faultBadaddr : (writeReg i v s).faultBadaddr = s.faultBadaddr := rfl
@[simp] theorem writeReg_mem : (writeReg i v s).mem = s.mem := rfl
@[simp] theorem writeReg_sh : (writeReg i v s).sh = s.sh := rfl
@[simp] theorem writeReg_slen : (writeReg i v s).slen = s.slen := rfl
@[simp] theorem writeReg_smode : (writeReg i v s).smode = s.smode := rfl
@[simp] theorem writeReg_rh : (writeReg i v s).rh = s.rh := rfl
@[simp] theorem writeReg_rlen : (writeReg i v s).rlen = s.rlen := rfl
@[simp] theorem writeReg_hk0 : (writeReg i v s).hk0 = s.hk0 := rfl
@[simp] theorem writeReg_turns : (writeReg i v s).turns = s.turns := rfl
@[simp] theorem writeReg_rnd : (writeReg i v s).rnd = s.rnd := rfl
@[simp] theorem writeReg_busyReads : (writeReg i v s).busyReads = s.busyReads := rfl
@[simp] theorem writeReg_rdata : (writeReg i v s).rdata = s.rdata := rfl

end

/-! ## writePoint -/

section

variable (i : PtIdx) (p : Point) (s : State)

@[simp] theorem writePoint_cfg : (writePoint i p s).cfg = s.cfg := rfl
@[simp] theorem writePoint_r : (writePoint i p s).r = s.r := rfl
@[simp] theorem writePoint_pt : (writePoint i p s).pt = s.pt.set i (PointReg.ofPoint p) := rfl
@[simp] theorem writePoint_cp : (writePoint i p s).cp = s.cp := rfl
@[simp] theorem writePoint_ca : (writePoint i p s).ca = s.ca := rfl
@[simp] theorem writePoint_cb : (writePoint i p s).cb = s.cb := rfl
@[simp] theorem writePoint_gx : (writePoint i p s).gx = s.gx := rfl
@[simp] theorem writePoint_gy : (writePoint i p s).gy = s.gy := rfl
@[simp] theorem writePoint_cn : (writePoint i p s).cn = s.cn := rfl
@[simp] theorem writePoint_cmdreg : (writePoint i p s).cmdreg = s.cmdreg := rfl
@[simp] theorem writePoint_busy : (writePoint i p s).busy = s.busy := rfl
@[simp] theorem writePoint_done : (writePoint i p s).done = s.done := rfl
@[simp] theorem writePoint_err : (writePoint i p s).err = s.err := rfl
@[simp] theorem writePoint_res : (writePoint i p s).res = s.res := rfl
@[simp] theorem writePoint_hact : (writePoint i p s).hact = s.hact := rfl
@[simp] theorem writePoint_halg : (writePoint i p s).halg = s.halg := rfl
@[simp] theorem writePoint_ie : (writePoint i p s).ie = s.ie := rfl
@[simp] theorem writePoint_faultWbusy : (writePoint i p s).faultWbusy = s.faultWbusy := rfl
@[simp] theorem writePoint_faultBadaddr : (writePoint i p s).faultBadaddr = s.faultBadaddr := rfl
@[simp] theorem writePoint_mem : (writePoint i p s).mem = s.mem := rfl
@[simp] theorem writePoint_sh : (writePoint i p s).sh = s.sh := rfl
@[simp] theorem writePoint_slen : (writePoint i p s).slen = s.slen := rfl
@[simp] theorem writePoint_smode : (writePoint i p s).smode = s.smode := rfl
@[simp] theorem writePoint_rh : (writePoint i p s).rh = s.rh := rfl
@[simp] theorem writePoint_rlen : (writePoint i p s).rlen = s.rlen := rfl
@[simp] theorem writePoint_hk0 : (writePoint i p s).hk0 = s.hk0 := rfl
@[simp] theorem writePoint_turns : (writePoint i p s).turns = s.turns := rfl
@[simp] theorem writePoint_rnd : (writePoint i p s).rnd = s.rnd := rfl
@[simp] theorem writePoint_busyReads : (writePoint i p s).busyReads = s.busyReads := rfl
@[simp] theorem writePoint_rdata : (writePoint i p s).rdata = s.rdata := rfl

end

/-! ## writeDigest -/

section

variable (d : List Byte) (s : State)

@[simp] theorem writeDigest_cfg : (writeDigest d s).cfg = s.cfg := rfl
@[simp] theorem writeDigest_r : (writeDigest d s).r = s.r := rfl
@[simp] theorem writeDigest_pt : (writeDigest d s).pt = s.pt := rfl
@[simp] theorem writeDigest_cp : (writeDigest d s).cp = s.cp := rfl
@[simp] theorem writeDigest_ca : (writeDigest d s).ca = s.ca := rfl
@[simp] theorem writeDigest_cb : (writeDigest d s).cb = s.cb := rfl
@[simp] theorem writeDigest_gx : (writeDigest d s).gx = s.gx := rfl
@[simp] theorem writeDigest_gy : (writeDigest d s).gy = s.gy := rfl
@[simp] theorem writeDigest_cn : (writeDigest d s).cn = s.cn := rfl
@[simp] theorem writeDigest_cmdreg : (writeDigest d s).cmdreg = s.cmdreg := rfl
@[simp] theorem writeDigest_busy : (writeDigest d s).busy = s.busy := rfl
@[simp] theorem writeDigest_done : (writeDigest d s).done = s.done := rfl
@[simp] theorem writeDigest_err : (writeDigest d s).err = s.err := rfl
@[simp] theorem writeDigest_res : (writeDigest d s).res = s.res := rfl
@[simp] theorem writeDigest_hact : (writeDigest d s).hact = s.hact := rfl
@[simp] theorem writeDigest_halg : (writeDigest d s).halg = s.halg := rfl
@[simp] theorem writeDigest_ie : (writeDigest d s).ie = s.ie := rfl
@[simp] theorem writeDigest_faultWbusy : (writeDigest d s).faultWbusy = s.faultWbusy := rfl
@[simp] theorem writeDigest_faultBadaddr : (writeDigest d s).faultBadaddr = s.faultBadaddr := rfl
@[simp] theorem writeDigest_mem : (writeDigest d s).mem = storeBytes s.mem digBase (d ++ zeroBytes (64 - d.length)) := rfl
@[simp] theorem writeDigest_sh : (writeDigest d s).sh = s.sh := rfl
@[simp] theorem writeDigest_slen : (writeDigest d s).slen = s.slen := rfl
@[simp] theorem writeDigest_smode : (writeDigest d s).smode = s.smode := rfl
@[simp] theorem writeDigest_rh : (writeDigest d s).rh = s.rh := rfl
@[simp] theorem writeDigest_rlen : (writeDigest d s).rlen = s.rlen := rfl
@[simp] theorem writeDigest_hk0 : (writeDigest d s).hk0 = s.hk0 := rfl
@[simp] theorem writeDigest_turns : (writeDigest d s).turns = s.turns := rfl
@[simp] theorem writeDigest_rnd : (writeDigest d s).rnd = s.rnd := rfl
@[simp] theorem writeDigest_busyReads : (writeDigest d s).busyReads = s.busyReads := rfl
@[simp] theorem writeDigest_rdata : (writeDigest d s).rdata = s.rdata := rfl

end

/-! ## writeSha -/

section

variable (h : ShaChain) (n : DWord) (s : State)

@[simp] theorem writeSha_cfg : (writeSha h n s).cfg = s.cfg := rfl
@[simp] theorem writeSha_r : (writeSha h n s).r = s.r := rfl
@[simp] theorem writeSha_pt : (writeSha h n s).pt = s.pt := rfl
@[simp] theorem writeSha_cp : (writeSha h n s).cp = s.cp := rfl
@[simp] theorem writeSha_ca : (writeSha h n s).ca = s.ca := rfl
@[simp] theorem writeSha_cb : (writeSha h n s).cb = s.cb := rfl
@[simp] theorem writeSha_gx : (writeSha h n s).gx = s.gx := rfl
@[simp] theorem writeSha_gy : (writeSha h n s).gy = s.gy := rfl
@[simp] theorem writeSha_cn : (writeSha h n s).cn = s.cn := rfl
@[simp] theorem writeSha_cmdreg : (writeSha h n s).cmdreg = s.cmdreg := rfl
@[simp] theorem writeSha_busy : (writeSha h n s).busy = s.busy := rfl
@[simp] theorem writeSha_done : (writeSha h n s).done = s.done := rfl
@[simp] theorem writeSha_err : (writeSha h n s).err = s.err := rfl
@[simp] theorem writeSha_res : (writeSha h n s).res = s.res := rfl
@[simp] theorem writeSha_hact : (writeSha h n s).hact = s.hact := rfl
@[simp] theorem writeSha_halg : (writeSha h n s).halg = s.halg := rfl
@[simp] theorem writeSha_ie : (writeSha h n s).ie = s.ie := rfl
@[simp] theorem writeSha_faultWbusy : (writeSha h n s).faultWbusy = s.faultWbusy := rfl
@[simp] theorem writeSha_faultBadaddr : (writeSha h n s).faultBadaddr = s.faultBadaddr := rfl
@[simp] theorem writeSha_mem : (writeSha h n s).mem = s.mem := rfl
@[simp] theorem writeSha_sh : (writeSha h n s).sh = h := rfl
@[simp] theorem writeSha_slen : (writeSha h n s).slen = n := rfl
@[simp] theorem writeSha_smode : (writeSha h n s).smode = s.smode := rfl
@[simp] theorem writeSha_rh : (writeSha h n s).rh = s.rh := rfl
@[simp] theorem writeSha_rlen : (writeSha h n s).rlen = s.rlen := rfl
@[simp] theorem writeSha_hk0 : (writeSha h n s).hk0 = s.hk0 := rfl
@[simp] theorem writeSha_turns : (writeSha h n s).turns = s.turns := rfl
@[simp] theorem writeSha_rnd : (writeSha h n s).rnd = s.rnd := rfl
@[simp] theorem writeSha_busyReads : (writeSha h n s).busyReads = s.busyReads := rfl
@[simp] theorem writeSha_rdata : (writeSha h n s).rdata = s.rdata := rfl

end

/-! ## writeShaMode -/

section

variable (m : ShaMode) (s : State)

@[simp] theorem writeShaMode_cfg : (writeShaMode m s).cfg = s.cfg := rfl
@[simp] theorem writeShaMode_r : (writeShaMode m s).r = s.r := rfl
@[simp] theorem writeShaMode_pt : (writeShaMode m s).pt = s.pt := rfl
@[simp] theorem writeShaMode_cp : (writeShaMode m s).cp = s.cp := rfl
@[simp] theorem writeShaMode_ca : (writeShaMode m s).ca = s.ca := rfl
@[simp] theorem writeShaMode_cb : (writeShaMode m s).cb = s.cb := rfl
@[simp] theorem writeShaMode_gx : (writeShaMode m s).gx = s.gx := rfl
@[simp] theorem writeShaMode_gy : (writeShaMode m s).gy = s.gy := rfl
@[simp] theorem writeShaMode_cn : (writeShaMode m s).cn = s.cn := rfl
@[simp] theorem writeShaMode_cmdreg : (writeShaMode m s).cmdreg = s.cmdreg := rfl
@[simp] theorem writeShaMode_busy : (writeShaMode m s).busy = s.busy := rfl
@[simp] theorem writeShaMode_done : (writeShaMode m s).done = s.done := rfl
@[simp] theorem writeShaMode_err : (writeShaMode m s).err = s.err := rfl
@[simp] theorem writeShaMode_res : (writeShaMode m s).res = s.res := rfl
@[simp] theorem writeShaMode_hact : (writeShaMode m s).hact = s.hact := rfl
@[simp] theorem writeShaMode_halg : (writeShaMode m s).halg = s.halg := rfl
@[simp] theorem writeShaMode_ie : (writeShaMode m s).ie = s.ie := rfl
@[simp] theorem writeShaMode_faultWbusy : (writeShaMode m s).faultWbusy = s.faultWbusy := rfl
@[simp] theorem writeShaMode_faultBadaddr : (writeShaMode m s).faultBadaddr = s.faultBadaddr := rfl
@[simp] theorem writeShaMode_mem : (writeShaMode m s).mem = s.mem := rfl
@[simp] theorem writeShaMode_sh : (writeShaMode m s).sh = s.sh := rfl
@[simp] theorem writeShaMode_slen : (writeShaMode m s).slen = s.slen := rfl
@[simp] theorem writeShaMode_smode : (writeShaMode m s).smode = m := rfl
@[simp] theorem writeShaMode_rh : (writeShaMode m s).rh = s.rh := rfl
@[simp] theorem writeShaMode_rlen : (writeShaMode m s).rlen = s.rlen := rfl
@[simp] theorem writeShaMode_hk0 : (writeShaMode m s).hk0 = s.hk0 := rfl
@[simp] theorem writeShaMode_turns : (writeShaMode m s).turns = s.turns := rfl
@[simp] theorem writeShaMode_rnd : (writeShaMode m s).rnd = s.rnd := rfl
@[simp] theorem writeShaMode_busyReads : (writeShaMode m s).busyReads = s.busyReads := rfl
@[simp] theorem writeShaMode_rdata : (writeShaMode m s).rdata = s.rdata := rfl

end

/-! ## writeRmd -/

section

variable (h : RmdChain) (n : DWord) (s : State)

@[simp] theorem writeRmd_cfg : (writeRmd h n s).cfg = s.cfg := rfl
@[simp] theorem writeRmd_r : (writeRmd h n s).r = s.r := rfl
@[simp] theorem writeRmd_pt : (writeRmd h n s).pt = s.pt := rfl
@[simp] theorem writeRmd_cp : (writeRmd h n s).cp = s.cp := rfl
@[simp] theorem writeRmd_ca : (writeRmd h n s).ca = s.ca := rfl
@[simp] theorem writeRmd_cb : (writeRmd h n s).cb = s.cb := rfl
@[simp] theorem writeRmd_gx : (writeRmd h n s).gx = s.gx := rfl
@[simp] theorem writeRmd_gy : (writeRmd h n s).gy = s.gy := rfl
@[simp] theorem writeRmd_cn : (writeRmd h n s).cn = s.cn := rfl
@[simp] theorem writeRmd_cmdreg : (writeRmd h n s).cmdreg = s.cmdreg := rfl
@[simp] theorem writeRmd_busy : (writeRmd h n s).busy = s.busy := rfl
@[simp] theorem writeRmd_done : (writeRmd h n s).done = s.done := rfl
@[simp] theorem writeRmd_err : (writeRmd h n s).err = s.err := rfl
@[simp] theorem writeRmd_res : (writeRmd h n s).res = s.res := rfl
@[simp] theorem writeRmd_hact : (writeRmd h n s).hact = s.hact := rfl
@[simp] theorem writeRmd_halg : (writeRmd h n s).halg = s.halg := rfl
@[simp] theorem writeRmd_ie : (writeRmd h n s).ie = s.ie := rfl
@[simp] theorem writeRmd_faultWbusy : (writeRmd h n s).faultWbusy = s.faultWbusy := rfl
@[simp] theorem writeRmd_faultBadaddr : (writeRmd h n s).faultBadaddr = s.faultBadaddr := rfl
@[simp] theorem writeRmd_mem : (writeRmd h n s).mem = s.mem := rfl
@[simp] theorem writeRmd_sh : (writeRmd h n s).sh = s.sh := rfl
@[simp] theorem writeRmd_slen : (writeRmd h n s).slen = s.slen := rfl
@[simp] theorem writeRmd_smode : (writeRmd h n s).smode = s.smode := rfl
@[simp] theorem writeRmd_rh : (writeRmd h n s).rh = h := rfl
@[simp] theorem writeRmd_rlen : (writeRmd h n s).rlen = n := rfl
@[simp] theorem writeRmd_hk0 : (writeRmd h n s).hk0 = s.hk0 := rfl
@[simp] theorem writeRmd_turns : (writeRmd h n s).turns = s.turns := rfl
@[simp] theorem writeRmd_rnd : (writeRmd h n s).rnd = s.rnd := rfl
@[simp] theorem writeRmd_busyReads : (writeRmd h n s).busyReads = s.busyReads := rfl
@[simp] theorem writeRmd_rdata : (writeRmd h n s).rdata = s.rdata := rfl

end

/-! ## openHmac -/

section

variable (alg : Alg) (k0 : List Byte) (s : State)

@[simp] theorem openHmac_cfg : (openHmac alg k0 s).cfg = s.cfg := rfl
@[simp] theorem openHmac_r : (openHmac alg k0 s).r = s.r := rfl
@[simp] theorem openHmac_pt : (openHmac alg k0 s).pt = s.pt := rfl
@[simp] theorem openHmac_cp : (openHmac alg k0 s).cp = s.cp := rfl
@[simp] theorem openHmac_ca : (openHmac alg k0 s).ca = s.ca := rfl
@[simp] theorem openHmac_cb : (openHmac alg k0 s).cb = s.cb := rfl
@[simp] theorem openHmac_gx : (openHmac alg k0 s).gx = s.gx := rfl
@[simp] theorem openHmac_gy : (openHmac alg k0 s).gy = s.gy := rfl
@[simp] theorem openHmac_cn : (openHmac alg k0 s).cn = s.cn := rfl
@[simp] theorem openHmac_cmdreg : (openHmac alg k0 s).cmdreg = s.cmdreg := rfl
@[simp] theorem openHmac_busy : (openHmac alg k0 s).busy = s.busy := rfl
@[simp] theorem openHmac_done : (openHmac alg k0 s).done = s.done := rfl
@[simp] theorem openHmac_err : (openHmac alg k0 s).err = s.err := rfl
@[simp] theorem openHmac_res : (openHmac alg k0 s).res = s.res := rfl
@[simp] theorem openHmac_hact : (openHmac alg k0 s).hact = true := rfl
@[simp] theorem openHmac_halg : (openHmac alg k0 s).halg = alg := rfl
@[simp] theorem openHmac_ie : (openHmac alg k0 s).ie = s.ie := rfl
@[simp] theorem openHmac_faultWbusy : (openHmac alg k0 s).faultWbusy = s.faultWbusy := rfl
@[simp] theorem openHmac_faultBadaddr : (openHmac alg k0 s).faultBadaddr = s.faultBadaddr := rfl
@[simp] theorem openHmac_mem : (openHmac alg k0 s).mem = s.mem := rfl
@[simp] theorem openHmac_sh : (openHmac alg k0 s).sh = s.sh := rfl
@[simp] theorem openHmac_slen : (openHmac alg k0 s).slen = s.slen := rfl
@[simp] theorem openHmac_smode : (openHmac alg k0 s).smode = s.smode := rfl
@[simp] theorem openHmac_rh : (openHmac alg k0 s).rh = s.rh := rfl
@[simp] theorem openHmac_rlen : (openHmac alg k0 s).rlen = s.rlen := rfl
@[simp] theorem openHmac_hk0 : (openHmac alg k0 s).hk0 = storeBytes [] 0 k0 := rfl
@[simp] theorem openHmac_turns : (openHmac alg k0 s).turns = s.turns := rfl
@[simp] theorem openHmac_rnd : (openHmac alg k0 s).rnd = s.rnd := rfl
@[simp] theorem openHmac_busyReads : (openHmac alg k0 s).busyReads = s.busyReads := rfl
@[simp] theorem openHmac_rdata : (openHmac alg k0 s).rdata = s.rdata := rfl

end

/-! ## closeHmac -/

section

variable (s : State)

@[simp] theorem closeHmac_cfg : (closeHmac s).cfg = s.cfg := rfl
@[simp] theorem closeHmac_r : (closeHmac s).r = s.r := rfl
@[simp] theorem closeHmac_pt : (closeHmac s).pt = s.pt := rfl
@[simp] theorem closeHmac_cp : (closeHmac s).cp = s.cp := rfl
@[simp] theorem closeHmac_ca : (closeHmac s).ca = s.ca := rfl
@[simp] theorem closeHmac_cb : (closeHmac s).cb = s.cb := rfl
@[simp] theorem closeHmac_gx : (closeHmac s).gx = s.gx := rfl
@[simp] theorem closeHmac_gy : (closeHmac s).gy = s.gy := rfl
@[simp] theorem closeHmac_cn : (closeHmac s).cn = s.cn := rfl
@[simp] theorem closeHmac_cmdreg : (closeHmac s).cmdreg = s.cmdreg := rfl
@[simp] theorem closeHmac_busy : (closeHmac s).busy = s.busy := rfl
@[simp] theorem closeHmac_done : (closeHmac s).done = s.done := rfl
@[simp] theorem closeHmac_err : (closeHmac s).err = s.err := rfl
@[simp] theorem closeHmac_res : (closeHmac s).res = s.res := rfl
@[simp] theorem closeHmac_hact : (closeHmac s).hact = false := rfl
@[simp] theorem closeHmac_halg : (closeHmac s).halg = s.halg := rfl
@[simp] theorem closeHmac_ie : (closeHmac s).ie = s.ie := rfl
@[simp] theorem closeHmac_faultWbusy : (closeHmac s).faultWbusy = s.faultWbusy := rfl
@[simp] theorem closeHmac_faultBadaddr : (closeHmac s).faultBadaddr = s.faultBadaddr := rfl
@[simp] theorem closeHmac_mem : (closeHmac s).mem = s.mem := rfl
@[simp] theorem closeHmac_sh : (closeHmac s).sh = s.sh := rfl
@[simp] theorem closeHmac_slen : (closeHmac s).slen = s.slen := rfl
@[simp] theorem closeHmac_smode : (closeHmac s).smode = s.smode := rfl
@[simp] theorem closeHmac_rh : (closeHmac s).rh = s.rh := rfl
@[simp] theorem closeHmac_rlen : (closeHmac s).rlen = s.rlen := rfl
@[simp] theorem closeHmac_hk0 : (closeHmac s).hk0 = s.hk0 := rfl
@[simp] theorem closeHmac_turns : (closeHmac s).turns = s.turns := rfl
@[simp] theorem closeHmac_rnd : (closeHmac s).rnd = s.rnd := rfl
@[simp] theorem closeHmac_busyReads : (closeHmac s).busyReads = s.busyReads := rfl
@[simp] theorem closeHmac_rdata : (closeHmac s).rdata = s.rdata := rfl

end

/-! ## writeRnd -/

section

variable (port : RndPort) (s : State)

@[simp] theorem writeRnd_cfg : (writeRnd port s).cfg = s.cfg := rfl
@[simp] theorem writeRnd_r : (writeRnd port s).r = s.r := rfl
@[simp] theorem writeRnd_pt : (writeRnd port s).pt = s.pt := rfl
@[simp] theorem writeRnd_cp : (writeRnd port s).cp = s.cp := rfl
@[simp] theorem writeRnd_ca : (writeRnd port s).ca = s.ca := rfl
@[simp] theorem writeRnd_cb : (writeRnd port s).cb = s.cb := rfl
@[simp] theorem writeRnd_gx : (writeRnd port s).gx = s.gx := rfl
@[simp] theorem writeRnd_gy : (writeRnd port s).gy = s.gy := rfl
@[simp] theorem writeRnd_cn : (writeRnd port s).cn = s.cn := rfl
@[simp] theorem writeRnd_cmdreg : (writeRnd port s).cmdreg = s.cmdreg := rfl
@[simp] theorem writeRnd_busy : (writeRnd port s).busy = s.busy := rfl
@[simp] theorem writeRnd_done : (writeRnd port s).done = s.done := rfl
@[simp] theorem writeRnd_err : (writeRnd port s).err = s.err := rfl
@[simp] theorem writeRnd_res : (writeRnd port s).res = s.res := rfl
@[simp] theorem writeRnd_hact : (writeRnd port s).hact = s.hact := rfl
@[simp] theorem writeRnd_halg : (writeRnd port s).halg = s.halg := rfl
@[simp] theorem writeRnd_ie : (writeRnd port s).ie = s.ie := rfl
@[simp] theorem writeRnd_faultWbusy : (writeRnd port s).faultWbusy = s.faultWbusy := rfl
@[simp] theorem writeRnd_faultBadaddr : (writeRnd port s).faultBadaddr = s.faultBadaddr := rfl
@[simp] theorem writeRnd_mem : (writeRnd port s).mem = s.mem := rfl
@[simp] theorem writeRnd_sh : (writeRnd port s).sh = s.sh := rfl
@[simp] theorem writeRnd_slen : (writeRnd port s).slen = s.slen := rfl
@[simp] theorem writeRnd_smode : (writeRnd port s).smode = s.smode := rfl
@[simp] theorem writeRnd_rh : (writeRnd port s).rh = s.rh := rfl
@[simp] theorem writeRnd_rlen : (writeRnd port s).rlen = s.rlen := rfl
@[simp] theorem writeRnd_hk0 : (writeRnd port s).hk0 = s.hk0 := rfl
@[simp] theorem writeRnd_turns : (writeRnd port s).turns = s.turns := rfl
@[simp] theorem writeRnd_rnd : (writeRnd port s).rnd = port := rfl
@[simp] theorem writeRnd_busyReads : (writeRnd port s).busyReads = s.busyReads := rfl
@[simp] theorem writeRnd_rdata : (writeRnd port s).rdata = s.rdata := rfl

end

/-! ## writePointReg -/

section

variable (i : PtIdx) (p : PointReg) (s : State)

@[simp] theorem writePointReg_cfg : (writePointReg i p s).cfg = s.cfg := rfl
@[simp] theorem writePointReg_r : (writePointReg i p s).r = s.r := rfl
@[simp] theorem writePointReg_pt : (writePointReg i p s).pt = s.pt.set i p := rfl
@[simp] theorem writePointReg_cp : (writePointReg i p s).cp = s.cp := rfl
@[simp] theorem writePointReg_ca : (writePointReg i p s).ca = s.ca := rfl
@[simp] theorem writePointReg_cb : (writePointReg i p s).cb = s.cb := rfl
@[simp] theorem writePointReg_gx : (writePointReg i p s).gx = s.gx := rfl
@[simp] theorem writePointReg_gy : (writePointReg i p s).gy = s.gy := rfl
@[simp] theorem writePointReg_cn : (writePointReg i p s).cn = s.cn := rfl
@[simp] theorem writePointReg_cmdreg : (writePointReg i p s).cmdreg = s.cmdreg := rfl
@[simp] theorem writePointReg_busy : (writePointReg i p s).busy = s.busy := rfl
@[simp] theorem writePointReg_done : (writePointReg i p s).done = s.done := rfl
@[simp] theorem writePointReg_err : (writePointReg i p s).err = s.err := rfl
@[simp] theorem writePointReg_res : (writePointReg i p s).res = s.res := rfl
@[simp] theorem writePointReg_hact : (writePointReg i p s).hact = s.hact := rfl
@[simp] theorem writePointReg_halg : (writePointReg i p s).halg = s.halg := rfl
@[simp] theorem writePointReg_ie : (writePointReg i p s).ie = s.ie := rfl
@[simp] theorem writePointReg_faultWbusy : (writePointReg i p s).faultWbusy = s.faultWbusy := rfl
@[simp] theorem writePointReg_faultBadaddr : (writePointReg i p s).faultBadaddr = s.faultBadaddr := rfl
@[simp] theorem writePointReg_mem : (writePointReg i p s).mem = s.mem := rfl
@[simp] theorem writePointReg_sh : (writePointReg i p s).sh = s.sh := rfl
@[simp] theorem writePointReg_slen : (writePointReg i p s).slen = s.slen := rfl
@[simp] theorem writePointReg_smode : (writePointReg i p s).smode = s.smode := rfl
@[simp] theorem writePointReg_rh : (writePointReg i p s).rh = s.rh := rfl
@[simp] theorem writePointReg_rlen : (writePointReg i p s).rlen = s.rlen := rfl
@[simp] theorem writePointReg_hk0 : (writePointReg i p s).hk0 = s.hk0 := rfl
@[simp] theorem writePointReg_turns : (writePointReg i p s).turns = s.turns := rfl
@[simp] theorem writePointReg_rnd : (writePointReg i p s).rnd = s.rnd := rfl
@[simp] theorem writePointReg_busyReads : (writePointReg i p s).busyReads = s.busyReads := rfl
@[simp] theorem writePointReg_rdata : (writePointReg i p s).rdata = s.rdata := rfl

end

/-! ## noteBusyWrite -/

section

variable (s : State)

@[simp] theorem noteBusyWrite_cfg : (noteBusyWrite s).cfg = s.cfg := rfl
@[simp] theorem noteBusyWrite_r : (noteBusyWrite s).r = s.r := rfl
@[simp] theorem noteBusyWrite_pt : (noteBusyWrite s).pt = s.pt := rfl
@[simp] theorem noteBusyWrite_cp : (noteBusyWrite s).cp = s.cp := rfl
@[simp] theorem noteBusyWrite_ca : (noteBusyWrite s).ca = s.ca := rfl
@[simp] theorem noteBusyWrite_cb : (noteBusyWrite s).cb = s.cb := rfl
@[simp] theorem noteBusyWrite_gx : (noteBusyWrite s).gx = s.gx := rfl
@[simp] theorem noteBusyWrite_gy : (noteBusyWrite s).gy = s.gy := rfl
@[simp] theorem noteBusyWrite_cn : (noteBusyWrite s).cn = s.cn := rfl
@[simp] theorem noteBusyWrite_cmdreg : (noteBusyWrite s).cmdreg = s.cmdreg := rfl
@[simp] theorem noteBusyWrite_busy : (noteBusyWrite s).busy = s.busy := rfl
@[simp] theorem noteBusyWrite_done : (noteBusyWrite s).done = s.done := rfl
@[simp] theorem noteBusyWrite_err : (noteBusyWrite s).err = s.err := rfl
@[simp] theorem noteBusyWrite_res : (noteBusyWrite s).res = s.res := rfl
@[simp] theorem noteBusyWrite_hact : (noteBusyWrite s).hact = s.hact := rfl
@[simp] theorem noteBusyWrite_halg : (noteBusyWrite s).halg = s.halg := rfl
@[simp] theorem noteBusyWrite_ie : (noteBusyWrite s).ie = s.ie := rfl
@[simp] theorem noteBusyWrite_faultWbusy : (noteBusyWrite s).faultWbusy = true := rfl
@[simp] theorem noteBusyWrite_faultBadaddr : (noteBusyWrite s).faultBadaddr = s.faultBadaddr := rfl
@[simp] theorem noteBusyWrite_mem : (noteBusyWrite s).mem = s.mem := rfl
@[simp] theorem noteBusyWrite_sh : (noteBusyWrite s).sh = s.sh := rfl
@[simp] theorem noteBusyWrite_slen : (noteBusyWrite s).slen = s.slen := rfl
@[simp] theorem noteBusyWrite_smode : (noteBusyWrite s).smode = s.smode := rfl
@[simp] theorem noteBusyWrite_rh : (noteBusyWrite s).rh = s.rh := rfl
@[simp] theorem noteBusyWrite_rlen : (noteBusyWrite s).rlen = s.rlen := rfl
@[simp] theorem noteBusyWrite_hk0 : (noteBusyWrite s).hk0 = s.hk0 := rfl
@[simp] theorem noteBusyWrite_turns : (noteBusyWrite s).turns = s.turns := rfl
@[simp] theorem noteBusyWrite_rnd : (noteBusyWrite s).rnd = s.rnd := rfl
@[simp] theorem noteBusyWrite_busyReads : (noteBusyWrite s).busyReads = s.busyReads := rfl
@[simp] theorem noteBusyWrite_rdata : (noteBusyWrite s).rdata = s.rdata := rfl

end

/-! ## noteBadAddress -/

section

variable (s : State)

@[simp] theorem noteBadAddress_cfg : (noteBadAddress s).cfg = s.cfg := rfl
@[simp] theorem noteBadAddress_r : (noteBadAddress s).r = s.r := rfl
@[simp] theorem noteBadAddress_pt : (noteBadAddress s).pt = s.pt := rfl
@[simp] theorem noteBadAddress_cp : (noteBadAddress s).cp = s.cp := rfl
@[simp] theorem noteBadAddress_ca : (noteBadAddress s).ca = s.ca := rfl
@[simp] theorem noteBadAddress_cb : (noteBadAddress s).cb = s.cb := rfl
@[simp] theorem noteBadAddress_gx : (noteBadAddress s).gx = s.gx := rfl
@[simp] theorem noteBadAddress_gy : (noteBadAddress s).gy = s.gy := rfl
@[simp] theorem noteBadAddress_cn : (noteBadAddress s).cn = s.cn := rfl
@[simp] theorem noteBadAddress_cmdreg : (noteBadAddress s).cmdreg = s.cmdreg := rfl
@[simp] theorem noteBadAddress_busy : (noteBadAddress s).busy = s.busy := rfl
@[simp] theorem noteBadAddress_done : (noteBadAddress s).done = s.done := rfl
@[simp] theorem noteBadAddress_err : (noteBadAddress s).err = s.err := rfl
@[simp] theorem noteBadAddress_res : (noteBadAddress s).res = s.res := rfl
@[simp] theorem noteBadAddress_hact : (noteBadAddress s).hact = s.hact := rfl
@[simp] theorem noteBadAddress_halg : (noteBadAddress s).halg = s.halg := rfl
@[simp] theorem noteBadAddress_ie : (noteBadAddress s).ie = s.ie := rfl
@[simp] theorem noteBadAddress_faultWbusy : (noteBadAddress s).faultWbusy = s.faultWbusy := rfl
@[simp] theorem noteBadAddress_faultBadaddr : (noteBadAddress s).faultBadaddr = true := rfl
@[simp] theorem noteBadAddress_mem : (noteBadAddress s).mem = s.mem := rfl
@[simp] theorem noteBadAddress_sh : (noteBadAddress s).sh = s.sh := rfl
@[simp] theorem noteBadAddress_slen : (noteBadAddress s).slen = s.slen := rfl
@[simp] theorem noteBadAddress_smode : (noteBadAddress s).smode = s.smode := rfl
@[simp] theorem noteBadAddress_rh : (noteBadAddress s).rh = s.rh := rfl
@[simp] theorem noteBadAddress_rlen : (noteBadAddress s).rlen = s.rlen := rfl
@[simp] theorem noteBadAddress_hk0 : (noteBadAddress s).hk0 = s.hk0 := rfl
@[simp] theorem noteBadAddress_turns : (noteBadAddress s).turns = s.turns := rfl
@[simp] theorem noteBadAddress_rnd : (noteBadAddress s).rnd = s.rnd := rfl
@[simp] theorem noteBadAddress_busyReads : (noteBadAddress s).busyReads = s.busyReads := rfl
@[simp] theorem noteBadAddress_rdata : (noteBadAddress s).rdata = s.rdata := rfl

end

end Sys2Proof.Machine
end

