-- ==== Sys2Proof/Laws/Ops.lean ====
section
/-! SUPPORT. Laws/Ops.lean: for each shared operation, once, what it can do; later proofs cite these instead of unfolding
the operation. -/

namespace Sys2Proof.Machine

/-! ## Completions and errors -/

/-- A completion answers exactly the finished state. -/
@[simp] theorem complete_eq_next {k : BitVec 2} {s t : State} : complete k s = .next t ↔ t = finish .ok k s := by
  simp [complete, eq_comm]

/-- An error completion answers exactly the state with the code in `STATUS`. -/
@[simp] theorem raiseError_eq_next {e : ErrCode} {s t : State} : raiseError e s = .next t ↔ t = finish e 0 s := by
  simp [raiseError, eq_comm]

@[simp] theorem complete_ne_fault {k : BitVec 2} {s : State} {f : Fault} : complete k s ≠ .fault f := by simp [complete]

@[simp] theorem complete_ne_refused {k : BitVec 2} {s : State} {r : Refusal} : complete k s ≠ .refused r := by
  simp [complete]

@[simp] theorem raiseError_ne_fault {e : ErrCode} {s : State} {f : Fault} : raiseError e s ≠ .fault f := by
  simp [raiseError]

@[simp] theorem raiseError_ne_refused {e : ErrCode} {s : State} {r : Refusal} : raiseError e s ≠ .refused r := by
  simp [raiseError]

/-- The `STATUS` fields of a finished state. -/
theorem finish_completed (e : ErrCode) (k : BitVec 2) (s : State) : Completed e k (finish e k s) := ⟨rfl, rfl, rfl, rfl⟩

/-- Finishing a command changes only `STATUS`. -/
theorem finish_sameButStatus (e : ErrCode) (k : BitVec 2) (s : State) : SameButStatus s (finish e k s) :=
  ⟨rfl, rfl, ⟨rfl, rfl, rfl, rfl, rfl, rfl⟩, ⟨rfl, rfl, rfl⟩, ⟨rfl, rfl⟩, ⟨rfl, fun _ => rfl⟩, rfl, fun _ => rfl,
    ⟨rfl, rfl, rfl, rfl, rfl⟩, rfl, rfl, rfl⟩

/-- With the modulus check, either the modulus is 0 and the command ends in `ERR_MODULUS`, or it goes on. -/
theorem withModulus_cases (s : State) (go : Result) :
    (s.cp = 0 ∧ withModulus s go = raiseError .modulus s) ∨ (s.cp ≠ 0 ∧ withModulus s go = go) := by
  unfold withModulus
  split_ifs with h
  · exact .inl ⟨h, rfl⟩
  · exact .inr ⟨h, rfl⟩

/-- A point result that answers a next state is a failure's code or a written point. -/
theorem completePoint_cases {pd : PtIdx} {r : Except EcError Point} {s t : State} (h : completePoint pd r s = .next t) :
    (∃ e, r = .error e ∧ t = finish e.errCode 0 s) ∨ (∃ p, r = .ok p ∧ t = finish .ok 0 (writePoint pd p s)) := by
  cases r with
  | error e => exact .inl ⟨e, rfl, by simpa [completePoint] using h⟩
  | ok p => exact .inr ⟨p, rfl, by simpa [completePoint] using h⟩

/-! ## Registers -/

@[simp] theorem readReg_writeReg_same (i : RegIdx) (v : Nat) (s : State) : readReg (writeReg i v s) i = v := by
  simp [readReg]

theorem readReg_writeReg_ne {i j : RegIdx} (h : j ≠ i) (v : Nat) (s : State) :
    readReg (writeReg i v s) j = readReg s j := by
  have h' : (i : Nat) ≠ j := fun e => h (Fin.ext e.symm)
  simp [readReg, h']

@[simp] theorem readPoint_writePoint_same (i : PtIdx) (p : Point) (s : State) : readPoint (writePoint i p s) i = p := by
  cases p <;> simp [readPoint, PointReg.ofPoint, PointReg.value]

theorem readPoint_writePoint_ne {i j : PtIdx} (h : j ≠ i) (p : Point) (s : State) :
    readPoint (writePoint i p s) j = readPoint s j := by
  have h' : (i : Nat) ≠ j := fun e => h (Fin.ext e.symm)
  simp [readPoint, h']

/-! ## Numbers -/

/-- A residue is below its modulus. -/
theorem residue_lt (z : Int) {m : Nat} (h : 0 < m) : residue z m < m := by
  have h1 := Int.emod_lt_of_pos z (by exact_mod_cast h : (0 : Int) < m)
  have h2 := Int.emod_nonneg z (by omega : (m : Int) ≠ 0)
  unfold residue
  omega

/-- A residue is congruent to the integer it reduces. -/
theorem residue_cast (z : Int) {m : Nat} (h : 0 < m) : (residue z m : Int) = z % m :=
  Int.toNat_of_nonneg (Int.emod_nonneg z (by omega))

/-- A number brought into a range lies in it. -/
theorem intoRange_mem {lo hi : Nat} (h : lo ≤ hi) (v : Nat) : lo ≤ intoRange lo hi v ∧ intoRange lo hi v ≤ hi := by
  unfold intoRange
  split_ifs with hv
  · exact hv
  · have := Nat.mod_lt v (by omega : 0 < hi - lo + 1)
    omega

/-- A number already in the range is kept. -/
theorem intoRange_of_mem {lo hi v : Nat} (h : lo ≤ v ∧ v ≤ hi) : intoRange lo hi v = v := if_pos h

/-- A draw lies in the range it asked for, whatever the source answers (R8). -/
theorem drawRnd_mem (port : RndPort) {lo hi : Nat} (h : lo ≤ hi) :
    lo ≤ (drawRnd port lo hi).1 ∧ (drawRnd port lo hi).1 ≤ hi := by
  unfold drawRnd
  split <;> exact intoRange_mem h _

@[simp] theorem length_leBytes : ∀ k v : Nat, (leBytes k v).length = k
  | 0, _ => rfl
  | k + 1, v => by simp [leBytes, length_leBytes k]

@[simp] theorem length_beBytes (k v : Nat) : (beBytes k v).length = k := by simp [beBytes]

@[simp] theorem length_zeroBytes (k : Nat) : (zeroBytes k).length = k := by simp [zeroBytes]

@[simp] theorem length_cutBlocks (len : Nat) : ∀ (count : Nat) (bs : List Byte), (cutBlocks len count bs).length = count
  | 0, _ => rfl
  | count + 1, bs => by simp [cutBlocks, length_cutBlocks len count]

/-- Reading back a little-endian string gives the integer it was made from, modulo what its bytes can hold (R12). -/
theorem leNat_leBytes : ∀ k v : Nat, leNat (leBytes k v) = v % 256 ^ k
  | 0, v => by simp [leBytes, leNat, Nat.mod_one]
  | k + 1, v => by
    rw [leBytes, leNat, leNat_leBytes k, BitVec.toNat_ofNat, show 2 ^ 8 = 256 by rfl, pow_succ', Nat.mod_mul]

/-- Reading back a big-endian string gives the integer it was made from, modulo what its bytes can hold (R12). -/
theorem beNat_beBytes (k v : Nat) : beNat (beBytes k v) = v % 256 ^ k := by
  simp [beNat, beBytes, leNat_leBytes]

/-! ## Steps -/

/-- The engine's step: the decoded command's meaning, or `ERR_ILLEGAL` (R44, R85). -/
theorem engineStep_cases (s : State) :
    (∃ i, decode s.cmdreg = .ok i ∧ engineStep s = exec i s) ∨
    (∃ e, decode s.cmdreg = .error e ∧ engineStep s = raiseError .illegal s) := by
  unfold engineStep fetchCommand
  cases h : decode s.cmdreg with
  | error e => exact .inr ⟨e, rfl, rfl⟩
  | ok i => exact .inl ⟨i, rfl, rfl⟩

/-- A turn of the engine: its step when a command is pending, else nothing (R20). -/
theorem engineTurn_cases (s : State) :
    (s.busy = true ∧ engineTurn s = engineStep s) ∨ (s.busy = false ∧ engineTurn s = .next s) := by
  unfold engineTurn
  cases s.busy <;> simp

/-- A step of the machine: with no turn waiting, the engine's; else the first turn waiting (R20). -/
theorem step_cases (s : State) :
    (s.turns = [] ∧ step s = engineTurn s) ∨
    (∃ t rest, s.turns = t :: rest ∧ step s = takeTurn t { s with turns := rest }) := by
  unfold step machineStep
  cases h : s.turns with
  | nil => exact .inl ⟨rfl, rfl⟩
  | cons t rest => exact .inr ⟨t, rest, rfl, rfl⟩

/-! ## Host accesses -/

/-- A host read: no register there, a busy-time data read, or the value at that place (R73). -/
theorem memRead_cases (idx : WordIdx) (s : State) :
    (locate s.cfg (byteOffset idx) = none ∧ memRead idx s = (0, noteBadAddress s)) ∨
    (∃ loc, locate s.cfg (byteOffset idx) = some loc ∧ s.busy = true ∧ loc.isControl = false ∧
      memRead idx s = (Config.busyRead s.busyReads, { s with busyReads := s.busyReads + 1 })) ∨
    (∃ loc, locate s.cfg (byteOffset idx) = some loc ∧ (s.busy = false ∨ loc.isControl = true) ∧
      memRead idx s = (readLoc s loc, s)) := by
  unfold memRead
  cases h : locate s.cfg (byteOffset idx) with
  | none => exact .inl ⟨rfl, rfl⟩
  | some loc =>
    right
    cases hb : s.busy <;> cases hc : loc.isControl <;> simp [hc]

/-- A host write: no register there, `CTRL`, dropped because busy, or done (R73). -/
theorem memWrite_cases (idx : WordIdx) (v : Word) (s : State) :
    (locate s.cfg (byteOffset idx) = none ∧ memWrite idx v s = noteBadAddress s) ∨
    (locate s.cfg (byteOffset idx) = some .ctrl ∧ memWrite idx v s = writeCtrl v s) ∨
    (∃ loc, locate s.cfg (byteOffset idx) = some loc ∧ loc ≠ .ctrl ∧ s.busy = true ∧
      memWrite idx v s = noteBusyWrite s) ∨
    (∃ loc, locate s.cfg (byteOffset idx) = some loc ∧ loc ≠ .ctrl ∧ s.busy = false ∧
      memWrite idx v s = writeLoc v s loc) := by
  unfold memWrite
  cases h : locate s.cfg (byteOffset idx) with
  | none => exact .inl ⟨rfl, rfl⟩
  | some loc =>
    right
    cases loc <;> cases hb : s.busy <;> simp

end Sys2Proof.Machine
end

