-- ==== Sys2Proof/Laws/PerInstr.lean ====
section
/-! SUPPORT. Laws/PerInstr.lean: a fact about each command as syntax: the low byte of its word is its opcode of R84, whatever
its fields hold. -/

namespace Sys2Proof.Laws

/-- The opcode of a command (R84). -/
def opcodeOf : Instr → BitVec 8
  | .gcd .. => 0x10
  | .egcd .. => 0x11
  | .modinv .. => 0x12
  | .sqrtmod .. => 0x13
  | .shaInit _ => 0x20
  | .shaBlock => 0x21
  | .shaFinal _ => 0x22
  | .rmdInit => 0x30
  | .rmdBlock => 0x31
  | .rmdFinal _ => 0x32
  | .hmacInit .. => 0x40
  | .hmacFinal _ => 0x41
  | .ecOncurve _ => 0x50
  | .ecAdd .. => 0x51
  | .ecDbl .. => 0x52
  | .ecMul .. => 0x53
  | .ecNeg .. => 0x54
  | .ecLdg _ => 0x55

/-- A field placed at bit 8 or above leaves the low byte alone. -/
theorem low_placed (v : Nat) {lo : Nat} (h : 8 ≤ lo) : (placed v lo).extractLsb' 0 8 = 0#8 := by
  ext i hi
  simp [placed, show i < lo by omega]

theorem low_or (x y : Word) : (x ||| y).extractLsb' 0 8 = x.extractLsb' 0 8 ||| y.extractLsb' 0 8 := by
  ext i hi
  simp

/-- The low byte of a command's word is its opcode. -/
def OpcodeByte.Statement (i : Instr) : Prop := (encode i).extractLsb' 0 8 = opcodeOf i

theorem OpcodeByte.gcd (rd ra rb : RegIdx) : OpcodeByte.Statement (.gcd rd ra rb) := by
  simp [OpcodeByte.Statement, encode, opcodeOf, low_or, low_placed]

theorem OpcodeByte.egcd (rd rc re ra rb : RegIdx) : OpcodeByte.Statement (.egcd rd rc re ra rb) := by
  simp [OpcodeByte.Statement, encode, opcodeOf, low_or, low_placed]

theorem OpcodeByte.modinv (rd ra rb : RegIdx) : OpcodeByte.Statement (.modinv rd ra rb) := by
  simp [OpcodeByte.Statement, encode, opcodeOf, low_or, low_placed]

theorem OpcodeByte.sqrtmod (rd rc ra rb : RegIdx) (rounds : BitVec 8) :
    OpcodeByte.Statement (.sqrtmod rd rc ra rb rounds) := by
  simp [OpcodeByte.Statement, encode, opcodeOf, low_or, low_placed]

theorem OpcodeByte.shaInit (alg : ShaMode) : OpcodeByte.Statement (.shaInit alg) := by
  simp [OpcodeByte.Statement, encode, opcodeOf, low_or, low_placed]

theorem OpcodeByte.shaBlock : OpcodeByte.Statement .shaBlock := rfl

theorem OpcodeByte.shaFinal (nbytes : BitVec 8) : OpcodeByte.Statement (.shaFinal nbytes) := by
  simp [OpcodeByte.Statement, encode, opcodeOf, low_or, low_placed]

theorem OpcodeByte.rmdInit : OpcodeByte.Statement .rmdInit := rfl

theorem OpcodeByte.rmdBlock : OpcodeByte.Statement .rmdBlock := rfl

theorem OpcodeByte.rmdFinal (nbytes : BitVec 8) : OpcodeByte.Statement (.rmdFinal nbytes) := by
  simp [OpcodeByte.Statement, encode, opcodeOf, low_or, low_placed]

theorem OpcodeByte.hmacInit (alg : Alg) (klen : BitVec 8) : OpcodeByte.Statement (.hmacInit alg klen) := by
  simp [OpcodeByte.Statement, encode, opcodeOf, low_or, low_placed]

theorem OpcodeByte.hmacFinal (nbytes : BitVec 8) : OpcodeByte.Statement (.hmacFinal nbytes) := by
  simp [OpcodeByte.Statement, encode, opcodeOf, low_or, low_placed]

theorem OpcodeByte.ecOncurve (pa : PtIdx) : OpcodeByte.Statement (.ecOncurve pa) := by
  simp [OpcodeByte.Statement, encode, opcodeOf, low_or, low_placed]

theorem OpcodeByte.ecAdd (pd pa pb : PtIdx) : OpcodeByte.Statement (.ecAdd pd pa pb) := by
  simp [OpcodeByte.Statement, encode, opcodeOf, low_or, low_placed]

theorem OpcodeByte.ecDbl (pd pa : PtIdx) : OpcodeByte.Statement (.ecDbl pd pa) := by
  simp [OpcodeByte.Statement, encode, opcodeOf, low_or, low_placed]

theorem OpcodeByte.ecMul (pd pa : PtIdx) (rk : RegIdx) : OpcodeByte.Statement (.ecMul pd pa rk) := by
  simp [OpcodeByte.Statement, encode, opcodeOf, low_or, low_placed]

theorem OpcodeByte.ecNeg (pd pa : PtIdx) : OpcodeByte.Statement (.ecNeg pd pa) := by
  simp [OpcodeByte.Statement, encode, opcodeOf, low_or, low_placed]

theorem OpcodeByte.ecLdg (pd : PtIdx) : OpcodeByte.Statement (.ecLdg pd) := by
  simp [OpcodeByte.Statement, encode, opcodeOf, low_or, low_placed]

/-- No two rows of the opcode map share an opcode (R84). -/
theorem opcodes_distinct : (opRows.map OpRow.opcode).Nodup := by decide

/-- Every row's pattern has its opcode in the low byte and no bit outside its mask (R84). -/
theorem rows_consistent : ∀ row ∈ opRows, row.pattern.extractLsb' 0 8 = row.opcode ∧ row.pattern &&& row.mask = row.pattern := by
  decide

end Sys2Proof.Laws
end

