-- ==== Sys2Proof/Laws/Primality.lean ====
section
/-! SUPPORT. Laws/Primality.lean: what the modular power and the primality decision of the modular-arithmetic unit answer. -/

namespace Sys2Proof.Machine

theorem powLoop_eq (m : Nat) : ∀ n b e acc : Nat, e ≤ n → acc < m → powLoop m n b e acc = acc * b ^ e % m
  | 0, b, e, acc, he, ha => by
    obtain rfl : e = 0 := by omega
    simp [powLoop, Nat.mod_eq_of_lt ha]
  | n + 1, b, e, acc, he, ha => by
    rw [powLoop]
    split_ifs with h0 h1
    · simp [h0, Nat.mod_eq_of_lt ha]
    all_goals
      have hm : 0 < m := by omega
      rw [powLoop_eq m n _ _ _ (by omega) (by first | exact Nat.mod_lt _ hm | exact ha)]
      have hb : ∀ k, (b * b % m) ^ k ≡ b ^ (2 * k) [MOD m] := fun k => by
        rw [pow_mul, pow_two]; exact (Nat.mod_modEq _ _).pow k
    · conv_rhs => rw [show e = 2 * (e / 2) + 1 by omega, pow_succ', ← mul_assoc]
      exact (Nat.mod_modEq _ _).mul (hb _)
    · conv_rhs => rw [show e = 2 * (e / 2) by omega]
      exact (Nat.ModEq.refl _).mul (hb _)

/-- What `powMod` answers (R107). -/
theorem powMod_eq (a e : Nat) {m : Nat} (hm : 0 < m) : powMod a e m = a ^ e % m := by
  rw [powMod, powLoop_eq m e _ e _ le_rfl (Nat.mod_lt _ hm)]
  exact ((Nat.mod_modEq 1 m).mul ((Nat.mod_modEq a m).pow e)).trans (by rw [one_mul])

theorem noDivisorFrom_eq (p : Nat) : ∀ n d : Nat, p < n + d →
    (noDivisorFrom p n d = true ↔ ∀ k, d ≤ k → k * k ≤ p → ¬ k ∣ p)
  | 0, d, h => by
    refine iff_of_true rfl fun k hk hkk _ => ?_
    rcases Nat.eq_zero_or_pos k with rfl | hk0
    · omega
    · have := Nat.le_mul_of_pos_left k hk0
      omega
  | n + 1, d, h => by
    rw [noDivisorFrom]
    split_ifs with h1 h2
    · refine iff_of_true rfl fun k hk hkk => ?_
      have := Nat.mul_le_mul hk hk
      omega
    · refine iff_of_false (by simp) fun hall => hall d le_rfl (by omega) (Nat.dvd_of_mod_eq_zero h2)
    · rw [noDivisorFrom_eq p n (d + 1) (by omega)]
      refine ⟨fun hall k hk hkk hdvd => ?_, fun hall k hk => hall k (by omega)⟩
      rcases Nat.eq_or_lt_of_le hk with rfl | hlt
      · exact h2 (Nat.mod_eq_zero_of_dvd hdvd)
      · exact hall k hlt hkk hdvd

/-- Trial division decides primality. -/
theorem trialPrime_iff (p : Nat) : trialPrime p = true ↔ Nat.Prime p := by
  rw [trialPrime, Bool.and_eq_true, decide_eq_true_eq, noDivisorFrom_eq p p 2 (by omega), Nat.prime_def_le_sqrt]
  simp only [Nat.le_sqrt]

/-- A witness that holds over primes shows a prime. -/
theorem PrimeCert.prime_of_holds {known : List Nat} (hk : ∀ q ∈ known, Nat.Prime q) {c : PrimeCert}
    (h : c.holds known = true) : Nat.Prime c.p := by
  simp only [PrimeCert.holds, Bool.and_eq_true, decide_eq_true_eq, List.all_eq_true, bne_iff_ne, ne_eq] at h
  obtain ⟨⟨⟨h2, hprod⟩, hpow⟩, hall⟩ := h
  have hp0 : 0 < c.p := by omega
  have one_iff : ∀ e, powMod c.base e c.p = 1 ↔ (c.base : ZMod c.p) ^ e = 1 := fun e => by
    rw [powMod_eq _ _ hp0, show (1 : Nat) = 1 % c.p from (Nat.mod_eq_of_lt h2).symm]
    have := ZMod.natCast_eq_natCast_iff (c.base ^ e) 1 c.p
    push_cast at this
    exact this.symm
  have hprime : ∀ q ∈ c.factors, Nat.Prime q := fun q hq => by
    have := (hall q hq).2
    split_ifs at this
    · exact (trialPrime_iff q).1 this
    · exact hk q (List.elem_iff.1 this)
  refine lucas_primality c.p c.base ((one_iff _).1 hpow) fun q hq hdvd heq => ?_
  rw [← hprod] at hdvd
  obtain ⟨r, hr, hqr⟩ := (Prime.dvd_prod_iff hq.prime).1 hdvd
  obtain rfl := (Nat.prime_dvd_prime_iff_eq hq (hprime r hr)).1 hqr
  exact (hall q hr).1 ((one_iff _).2 heq)

theorem certifiedBy_prime : ∀ (cs : List PrimeCert) (known : List Nat), (∀ q ∈ known, Nat.Prime q) →
    ∀ q ∈ certifiedBy cs known, Nat.Prime q
  | [], _, hk => hk
  | c :: cs, known, hk => by
    refine certifiedBy_prime cs _ fun q hq => ?_
    split_ifs at hq with h
    · rcases List.mem_cons.1 hq with rfl | hq
      · exact PrimeCert.prime_of_holds hk h
      · exact hk q hq
    · exact hk q hq

/-- What the witnesses show is prime. -/
theorem prime_of_certified {p : Nat} (h : certified p = true) : Nat.Prime p := by
  rw [certified, Bool.and_eq_true] at h
  exact certifiedBy_prime curveCerts [] (by simp) p (List.elem_iff.1 h.2)

/-- `splitTwos` takes all twos out of a positive number. -/
theorem splitTwos_eq : ∀ k n : Nat, 0 < n → n ≤ k → (splitTwos k n).1 * 2 ^ (splitTwos k n).2 = n ∧ (splitTwos k n).1 % 2 = 1
  | 0, n, h, hk => by omega
  | k + 1, n, h, hk => by
    rw [splitTwos]
    split_ifs with h2
    · obtain ⟨h3, h4⟩ := splitTwos_eq k (n / 2) (by omega) (by omega)
      exact ⟨by dsimp only; rw [pow_succ, ← mul_assoc, h3]; omega, h4⟩
    · exact ⟨by simp, by dsimp only; omega⟩

theorem squaresReach_of_sq {p : Nat} (hp : 1 < p) (a d : Nat) : ∀ k j i : Nat, j < i → i ≤ j + k →
    a ^ (d * 2 ^ i) % p = p - 1 → squaresReach p k (a ^ (d * 2 ^ j) % p) = true
  | 0, j, i, h1, h2, _ => by omega
  | k + 1, j, i, h1, h2, h => by
    have hsq : a ^ (d * 2 ^ j) % p * (a ^ (d * 2 ^ j) % p) % p = a ^ (d * 2 ^ (j + 1)) % p := by
      rw [← Nat.mul_mod, ← pow_add, pow_succ]
      congr 2
      ring
    rw [squaresReach, hsq]
    split_ifs with h3
    · rfl
    · refine squaresReach_of_sq hp a d k (j + 1) i ?_ (by omega) h
      rcases Nat.lt_or_ge (j + 1) i with h4 | h4
      · exact h4
      · obtain rfl : i = j + 1 := by omega
        exact absurd h h3

/-- A prime passes every Miller-Rabin round whose base it does not divide (R108). -/
theorem roundPasses_of_prime {p a : Nat} (hp : Nat.Prime p) (h3 : 3 ≤ p) (ha : ¬ p ∣ a) : roundPasses p a = true := by
  have hp0 : 0 < p := by omega
  obtain ⟨hd, -⟩ := splitTwos_eq (p - 1) (p - 1) (by omega) le_rfl
  set d := (oddPart p).1 with hdef
  set s := (oddPart p).2 with hsdef
  have hds : d * 2 ^ s = p - 1 := hd
  have : Fact p.Prime := ⟨hp⟩
  have ha0 : (a : ZMod p) ≠ 0 := fun h => ha ((ZMod.natCast_eq_zero_iff a p).1 h)
  have key : ∀ i, i ≤ s → (a : ZMod p) ^ (d * 2 ^ i) = 1 →
      (a : ZMod p) ^ d = 1 ∨ ∃ j < i, (a : ZMod p) ^ (d * 2 ^ j) = -1 := by
    intro i
    induction i with
    | zero => intro _ h; exact .inl (by simpa using h)
    | succ i ih =>
      intro hi h
      have hsq : (a : ZMod p) ^ (d * 2 ^ i) * (a : ZMod p) ^ (d * 2 ^ i) = 1 := by
        rw [← pow_add, ← h]; congr 1; rw [pow_succ]; ring
      rcases mul_self_eq_one_iff.1 hsq with h1 | h1
      · rcases ih (by omega) h1 with h2 | ⟨j, hj, h2⟩
        · exact .inl h2
        · exact .inr ⟨j, by omega, h2⟩
      · exact .inr ⟨i, by omega, h1⟩
  have one_mod : ∀ e, (a : ZMod p) ^ e = 1 → a ^ e % p = 1 := fun e h => by
    have := (ZMod.natCast_eq_natCast_iff (a ^ e) 1 p).1 (by push_cast; exact h)
    exact Eq.trans this (Nat.mod_eq_of_lt (by omega))
  have neg_mod : ∀ e, (a : ZMod p) ^ e = -1 → a ^ e % p = p - 1 := fun e h => by
    have := (ZMod.natCast_eq_natCast_iff (a ^ e) (p - 1) p).1 (by
      push_cast [Nat.cast_sub (show 1 ≤ p by omega)]; rw [h, ZMod.natCast_self, zero_sub])
    exact Eq.trans this (Nat.mod_eq_of_lt (by omega))
  rw [roundPasses]
  simp only [← hdef, ← hsdef, powMod_eq _ _ hp0, Bool.or_eq_true, decide_eq_true_eq]
  rcases key s le_rfl (by rw [hds]; exact ZMod.pow_card_sub_one_eq_one ha0) with h | ⟨j, hj, h⟩
  · exact .inl (.inl (one_mod _ h))
  · rcases Nat.eq_zero_or_pos j with rfl | hj0
    · exact .inl (.inr (by simpa using neg_mod _ h))
    · refine .inr ?_
      have := squaresReach_of_sq (by omega : 1 < p) a d (s - 1) 0 j hj0 (by omega) (neg_mod _ h)
      simpa using this

/-- `takenForPrime` is primality, for every number (R111). -/
theorem takenForPrime_iff (p : Nat) : takenForPrime p = true ↔ Nat.Prime p := by
  rw [takenForPrime]
  split_ifs with h
  · exact trialPrime_iff p
  · rw [Bool.and_eq_true, Bool.or_eq_true, trialPrime_iff, List.all_eq_true]
    refine ⟨fun hp => hp.2.elim prime_of_certified id, fun hp => ⟨fun a ha => ?_, .inr hp⟩⟩
    have hlim : 2 ^ 20 ≤ p := Nat.le_of_not_lt h
    refine roundPasses_of_prime hp (by omega) fun hdvd => ?_
    have hbound : ∀ b ∈ screenBases, 0 < b ∧ b < 2 ^ 20 := by decide
    have := Nat.le_of_dvd (hbound a ha).1 hdvd
    have := (hbound a ha).2
    omega

end Sys2Proof.Machine
end

