-- ==== Sys2Proof/Tests/Slice0.lean ====
section
/-! SUPPORT. Tests/Slice0.lean: tests of the model against words and values of the spec (95_test_vectors.md and the examples
of the rules), and for each obligation with hypotheses a concrete state and operands that meet them. -/

namespace Sys2Proof.Tests

-- One theorem at a time: the kernel evaluations below, run side by side, need a thread each.
set_option Elab.async false

open Sys2Proof Sys2Proof.Machine

/-! ## Well-formedness: each check refuses an ill-formed term (R84, R85) -/

theorem test_egcd_rd_rc_coincide : Instr.wellFormed (.egcd 1 1 2 0 0) = false := by decide
theorem test_egcd_rd_re_coincide : Instr.wellFormed (.egcd 1 2 1 0 0) = false := by decide
theorem test_egcd_rc_re_coincide : Instr.wellFormed (.egcd 1 2 2 0 0) = false := by decide
theorem test_sqrtmod_rd_rc_coincide : Instr.wellFormed (.sqrtmod 2 2 0 1 5) = false := by decide

/-! ## Decoding: the words of 95_test_vectors.md section 2.1, every field at its largest legal value -/

theorem test_decode_modarith :
    decode 0x0001FF10 = .ok (.gcd 7 7 7) ∧ decode 0x007DFD11 = .ok (.egcd 5 6 7 7 7) ∧
    decode 0x0001FF12 = .ok (.modinv 7 7 7) ∧ decode 0xFF0FFE13 = .ok (.sqrtmod 6 7 7 7 255) :=
  ⟨rfl, rfl, rfl, rfl⟩

theorem test_decode_sha :
    decode 0x00000320 = .ok (.shaInit .sha512) ∧ decode 0x00000021 = .ok .shaBlock ∧
    decode 0x00FF0022 = .ok (.shaFinal 255) := ⟨rfl, rfl, rfl⟩

theorem test_decode_rmd :
    decode 0x00000030 = .ok .rmdInit ∧ decode 0x00000031 = .ok .rmdBlock ∧
    decode 0x00FF0032 = .ok (.rmdFinal 255) := ⟨rfl, rfl, rfl⟩

theorem test_decode_hmac :
    decode 0x00FF0440 = .ok (.hmacInit .rmd160 255) ∧ decode 0x00FF0041 = .ok (.hmacFinal 255) := ⟨rfl, rfl⟩

theorem test_decode_ec :
    decode 0x00001850 = .ok (.ecOncurve 3) ∧ decode 0x0000DB51 = .ok (.ecAdd 3 3 3) ∧
    decode 0x00001B52 = .ok (.ecDbl 3 3) ∧ decode 0x000E1B53 = .ok (.ecMul 3 3 7) ∧
    decode 0x00001B54 = .ok (.ecNeg 3 3) ∧ decode 0x00000355 = .ok (.ecLdg 3) := ⟨rfl, rfl, rfl, rfl, rfl, rfl⟩

/-- Illegal words of 95_test_vectors.md section 2.1, by the test of R90 they fail. -/
theorem test_decode_illegal :
    decode 0x00000000 = .error .unknownOpcode ∧ decode 0x00000056 = .error .unknownOpcode ∧
    decode 0x10000010 = .error .reservedBits ∧ decode 0x00800011 = .error .reservedBits ∧
    decode 0x00100013 = .error .reservedBits ∧ decode 0x00000420 = .error .reservedBits ∧
    decode 0x00002051 = .error .reservedBits ∧ decode 0x00120111 = .error .badOperands ∧
    decode 0x00040213 = .error .badOperands ∧ decode 0x00FF0540 = .error .badOperands :=
  ⟨rfl, rfl, rfl, rfl, rfl, rfl, rfl, rfl, rfl, rfl⟩

theorem test_table_word : decodeTableWord 32 0x00011A10 = some (.gcd 2 3 4) ∧ decodeTableWord 8 0x110 = some (.gcd 0 0 0) :=
  ⟨rfl, rfl⟩

/-! ## Small states -/

/-- What a step's next state shows. -/
def seen {α : Type} (f : State → α) : Result → Option α
  | .next t => some (f t)
  | .fault _ => none
  | .refused _ => none

/-- The reset state with two operand registers set. -/
def withRegs (i : RegIdx) (x : Nat) (j : RegIdx) (y : Nat) : State := writeReg j y (writeReg i x State.reset)

/-- The reset state with a byte string in a buffer. -/
def withBytes (base : Nat) (bs : List Byte) : State := { State.reset with mem := storeBytes [] base bs }

/-- The toy curve `p = 17, a = 2, b = 2` of R209 to R213 on a block with `OPW = 32`, and two points. -/
def toy (pt0 pt1 : Point) : State :=
  writePoint 1 pt1 (writePoint 0 pt0 { State.resetWith ⟨0, 409⟩ with cp := 17, ca := 2, cb := 2, gx := 5, gy := 1 })

/-- The bytes `abc`. -/
def abc : List Byte := [0x61, 0x62, 0x63]

/-- The first bytes of `DIG`. -/
def digBytes (n : Nat) (t : State) : List Byte := loadBytes t.mem digBase n

/-! ## One step of each command -/

/-- R103: `gcd(17, 137) = 1`; the word is `0x00011A10`. -/
theorem test_gcd : seen (fun t => (readReg t 2, statusWord t))
    (step ((withRegs 3 17 4 137).withFetchWord 32 0x00011A10)) = some (1, 0x2) := by decide +kernel

/-- R104: 240 and 46 give `g = 2`, `s = -9`, `t = 47`. -/
theorem test_egcd : seen (fun t => (readReg t 5, readReg t 6, readReg t 7))
    (exec (.egcd 5 6 7 0 1) (withRegs 0 240 1 46)) = some (2, 2 ^ 256 - 9, 47) := by decide +kernel

/-- A destination that is also a source: both operands are read before any result is written (R100). -/
theorem test_egcd_in_place : seen (fun t => (readReg t 0, readReg t 1, readReg t 2))
    (exec (.egcd 0 1 2 0 1) (withRegs 0 240 1 46)) = some (2, 2 ^ 256 - 9, 47) := by decide +kernel

/-- R106: `10 * 12 = 1 mod 17`. -/
theorem test_modinv : seen (fun t => readReg t 2) (exec (.modinv 2 0 1) (withRegs 0 10 1 17)) = some 12 := by
  decide +kernel

/-- R106: 6 has no inverse modulo 9; `STATUS` is `0x52` and the destination keeps its value. -/
theorem test_modinv_no_inverse : seen (fun t => (statusWord t, readReg t 1))
    (exec (.modinv 1 0 1) (withRegs 0 6 1 9)) = some (0x52, 9) := by decide +kernel

/-- R112: the roots of 137 modulo 17 are 1 and 16; `STATUS` is `0x202`. -/
theorem test_sqrtmod : seen (fun t => (readReg t 5, readReg t 6, statusWord t))
    (exec (.sqrtmod 5 6 4 3 5) (withRegs 4 137 3 17)) = some (1, 16, 0x202) := by decide +kernel

/-- R112: `10403 = 101 * 103` is rejected. -/
theorem test_sqrtmod_composite : seen statusWord
    (exec (.sqrtmod 5 6 4 3 5) (withRegs 4 0 3 10403)) = some 0x42 := by decide +kernel

/-- R140: after `SHA_INIT alg=1`, `SH[0]` is `0x6A09E667` with a zero high word. -/
theorem test_shaInit : seen (fun t => (readLoc t (.sh 0 false), readLoc t (.sh 0 true), t.smode))
    (exec (.shaInit .sha256) State.reset) = some (0x6A09E667, 0, .sha256) := by decide +kernel

/-- The state of a SHA-256 computation after `SHA_INIT`, with a byte string in `MSG`. -/
def shaReady (bs : List Byte) : State := { withBytes msgBase bs with smode := .sha256, sh := shaIv .sha256 }

/-- R136: the worked trace, the padded block of `abc`. -/
theorem test_shaBlock : seen (fun t => (t.sh[0], t.sh[7], t.slen))
    (exec .shaBlock (shaReady (abc ++ 0x80 :: zeroBytes 59 ++ [0x18]))) = some (0xba7816bf, 0xf20015ad, 64) := by
  decide +kernel

/-- R142: the digest of `abc`, and the bus word at `DIG+0`. -/
theorem test_shaFinal : seen (fun t => (digBytes 8 t, readLoc t (.digest 0x200), t.slen)) (exec (.shaFinal 3) (shaReady abc)) =
    some ([0xba, 0x78, 0x16, 0xbf, 0x8f, 0x01, 0xcf, 0xea], 0xBF1678BA, 3) := by decide +kernel

/-- R142: a tail of a whole block is a parameter error. -/
theorem test_shaFinal_param : seen statusWord (exec (.shaFinal 64) (shaReady abc)) = some 0x22 := by decide +kernel

/-- R161, R168. -/
theorem test_rmdInit : seen (fun t => (t.rh, t.rlen)) (exec .rmdInit State.reset) =
    some (#v[0x67452301, 0xefcdab89, 0x98badcfe, 0x10325476, 0xc3d2e1f0], 0) := by decide +kernel

/-- The state of a RIPEMD-160 computation after `RMD_INIT`, with a byte string in `MSG`. -/
def rmdReady (bs : List Byte) : State := { withBytes msgBase bs with rh := rmdIv }

/-- R166, R170: the block that the padding of `abc` gives leads to the chaining value of its digest. -/
theorem test_rmdBlock : seen (fun t => (t.rh, t.rlen))
    (exec .rmdBlock (rmdReady (abc ++ 0x80 :: zeroBytes 52 ++ [0x18]))) =
    some (#v[0xf708b28e, 0x7a985de0, 0x8e4a049b, 0x87b0c698, 0xfc0b5af1], 64) := by decide +kernel

/-- R170: the digest of `abc`. -/
theorem test_rmdFinal : seen (fun t => (digBytes 4 t, t.rlen, t.rh[0])) (exec (.rmdFinal 3) (rmdReady abc)) =
    some ([0x8e, 0xb2, 0x08, 0xf7], 3, 0xF708B28E) := by decide +kernel

/-- The key `password` of R184. -/
def password : List Byte := [0x70, 0x61, 0x73, 0x73, 0x77, 0x6f, 0x72, 0x64]

/-- R184: `HMAC_INIT alg=3 klen=8` with the key `password`. -/
theorem test_hmacInit : seen (fun t => (statusWord t, t.slen, t.sh[0]))
    (exec (.hmacInit (.sha .sha512) 8) (withBytes keyBase password)) = some (0x00031002, 128, 0x749c5ac47d496b6d) := by
  decide +kernel

/-- The open HMAC that R186 continues, with its message in `MSG`. -/
def hmacReady : State :=
  startInner (.sha .sha512) (blockKeyOf (.sha .sha512) password)
    (openHmac (.sha .sha512) (blockKeyOf (.sha .sha512) password)
      (withBytes msgBase [0x73, 0x61, 0x6c, 0x74, 0x00, 0x00, 0x00, 0x01]))

/-- R186: `HMAC_FINAL nbytes=8` on it. -/
theorem test_hmacFinal : seen (fun t => (statusWord t, digBytes 8 t, t.slen)) (exec (.hmacFinal 8) hmacReady) =
    some (0x00030002, [0x86, 0x7f, 0x70, 0xcf, 0x1a, 0xde, 0x02, 0xcf], 192) := by decide +kernel

/-- R186: with no HMAC open. -/
theorem test_hmacFinal_seq : seen statusWord (step (State.reset.withFetchWord 32 0x00000041)) = some 0x32 := by
  decide +kernel

/-- R209: `(5, 16)` is on the toy curve, `(5, 18)` is not. -/
theorem test_ecOncurve : seen (fun t => t.res) (exec (.ecOncurve 0) (toy (.affine 5 16) .inf)) = some 1 ∧
    seen (fun t => (t.res, t.err)) (exec (.ecOncurve 0) (toy (.affine 5 18) .inf)) = some (0, .ok) := by decide +kernel

/-- R210: `(5,1) + (6,3) = (10,6)`. -/
theorem test_ecAdd : seen (fun t => readPoint t 2) (exec (.ecAdd 2 0 1) (toy (.affine 5 1) (.affine 6 3))) =
    some (.affine 10 6) := by decide +kernel

/-- R210: `(5,1) + (5,2)` gives `STATUS = 0x62`. -/
theorem test_ecAdd_off : seen statusWord (exec (.ecAdd 2 0 1) (toy (.affine 5 1) (.affine 5 2))) = some 0x62 := by
  decide +kernel

/-- R211: `2*(5,1) = (6,3)`, in place. -/
theorem test_ecDbl : seen (fun t => readPoint t 0) (exec (.ecDbl 0 0) (toy (.affine 5 1) .inf)) = some (.affine 6 3) := by
  decide +kernel

/-- R212: `16*(5,1) = (10,11)`. -/
theorem test_ecMul : seen (fun t => readPoint t 1) (exec (.ecMul 1 0 3) (writeReg 3 16 (toy (.affine 5 1) .inf))) =
    some (.affine 10 11) := by decide +kernel

/-- R212: the scalar is reduced modulo `p = 17`: `18*P = P`. -/
theorem test_ecMul_reduces : seen (fun t => readPoint t 1) (exec (.ecMul 1 0 3) (writeReg 3 18 (toy (.affine 5 1) .inf))) =
    some (.affine 5 1) := by decide +kernel

/-- R213: `-(5,1) = (5,16)`. -/
theorem test_ecNeg : seen (fun t => readPoint t 3) (exec (.ecNeg 3 0) (toy (.affine 5 1) .inf)) = some (.affine 5 16) := by
  decide +kernel

/-- R214. -/
theorem test_ecLdg : seen (fun t => readPoint t 2) (exec (.ecLdg 2) (toy .inf .inf)) = some (.affine 5 1) := by
  decide +kernel

/-- R62: the message bytes `61 62 63` are the word `0x00636261` at `MSG + 0`. -/
theorem test_buffer_lanes : seen (fun t => msgBytes t 4)
    (step { State.reset with turns := [.write 0x040 0x00636261] }) = some [0x61, 0x62, 0x63, 0x00] := by decide +kernel

/-- R62: writing 1 to word 1 of `R[0]` adds `2^32`. -/
theorem test_wide_word : seen (fun t => readReg t 0)
    (step { withRegs 0 5 1 0 with turns := [.write 0x401 1] }) = some (2 ^ 32 + 5) := by decide +kernel

/-! ## Witnesses: concrete states and operands that meet the hypotheses of the obligations -/

/-- The reset state with a pending command. -/
def pending (w : Word) : State := accept w State.reset

/-- The fault of a step, if it stops with one. -/
def stopOf : Result → Option Fault
  | .next _ => none
  | .fault f => some f
  | .refused _ => none

theorem eq_fault_of_stopOf {o : Result} {f : Fault} (h : stopOf o = some f) : o = .fault f := by
  cases o <;> simp_all [stopOf]

/-- `181451 = 421 * 431` has no factor in the reference table. -/
def blum : Nat := 181451

theorem not_prime_blum : ¬ Nat.Prime blum := by norm_num [blum]

theorem witness_DecodeOfEncode : Instr.wellFormed (.egcd 0 1 2 7 7) = true ∧ Instr.wellFormed (.sqrtmod 7 0 0 7 255) = true := by
  decide

theorem witness_EncodeOfDecode : decode 0xFF0FFE13 = .ok (.sqrtmod 6 7 7 7 255) := rfl

theorem witness_IllegalWordRule :
    (State.reset.busy = false ∧ { State.reset with turns := [.write 2 0] }.turns = .write 2 0 :: []) ∧
    ∀ w ∈ [0x56#32, 0x10000010#32, 0x00120111#32, 0x00040213#32, 0x540#32],
      (pending w).busy = true ∧ (pending w).turns = [] ∧ ∃ e, decode (pending w).cmdreg = .error e := by
  refine ⟨⟨rfl, rfl⟩, ?_⟩
  simp only [List.forall_mem_cons, List.not_mem_nil, false_imp_iff, implies_true, and_true]
  exact ⟨⟨rfl, rfl, _, rfl⟩, ⟨rfl, rfl, _, rfl⟩, ⟨rfl, rfl, _, rfl⟩, ⟨rfl, rfl, _, rfl⟩, ⟨rfl, rfl, _, rfl⟩⟩

theorem witness_StepRunsDecodedCommand :
    ((pending 0x10).busy = true ∧ (pending 0x10).turns = [] ∧ decode (pending 0x10).cmdreg = .ok (.gcd 0 0 0)) ∧
    { pending 0x10 with turns := [.engine] }.turns = .engine :: [] ∧ decodeTableWord 32 0x10 = some (.gcd 0 0 0) :=
  ⟨⟨rfl, rfl, rfl⟩, rfl, rfl⟩

theorem witness_AcceptanceRule :
    { State.reset with turns := [.write 2 0] }.busy = false ∧ decode 0 = .error .unknownOpcode ∧
    { pending 0x10 with turns := [.write 2 0] }.busy = true := ⟨rfl, rfl, rfl⟩

theorem witness_ErrorChangesNothing : ∃ t, exec (.modinv 0 0 0) State.reset = .next t ∧ t.err ≠ .ok :=
  ⟨_, rfl, by decide⟩

theorem witness_CommandsWriteNoHostRegister : ∃ t, exec (.gcd 0 0 0) State.reset = .next t := ⟨_, rfl⟩

theorem witness_HactLife :
    (∃ t, exec (.hmacInit .rmd160 0) State.reset = .next t ∧ t.err = .ok) ∧
    (∃ t, exec (.hmacFinal 8) hmacReady = .next t ∧ t.err = .ok) ∧
    (∃ t, exec (.shaInit .sha224) State.reset = .next t) ∧ (∃ t, exec .rmdInit State.reset = .next t) ∧
    (∃ t, exec .shaBlock hmacReady = .next t) :=
  ⟨⟨_, rfl, rfl⟩, ⟨_, rfl, rfl⟩, ⟨_, rfl⟩, ⟨_, rfl⟩, ⟨_, rfl⟩⟩

theorem witness_InterruptLevel :
    (∃ t, engineStep (pending 0) = .next t) ∧ State.reset.busy = false ∧ (2#32).getLsbD 1 = true ∧
    (1#32).getLsbD 1 = false := ⟨⟨_, rfl⟩, rfl, rfl, rfl⟩

theorem witness_PendingCommandFrozen :
    (pending 0x10).busy = true ∧ ((4 : WordIdx) ≠ 4 ∨ (2#32).getLsbD 0 = false) ∧
    ((0 : WordIdx) ≠ 4 ∨ (1#32).getLsbD 0 = false) ∧
    { pending 0x10 with turns := [.read 0] }.turns = .read 0 :: [] ∧
    { pending 0x10 with turns := [.write 4 2] }.turns = .write 4 2 :: [] := by decide +kernel

/-- Words 7 and 8 of the slot of `R[0]` on the reference block, where `NW = 8`. -/
theorem witness_UnmappedAccessRule :
    locate Config.reference (byteOffset 0x407) = some (.reg 0 7) ∧ locate Config.reference (byteOffset 0x408) = none ∧
    locate Config.reference (byteOffset 6) = none ∧ { pending 0 with turns := [.read 6] }.turns = .read 6 :: [] ∧
    { pending 0 with turns := [.write 0x408 1] }.turns = .write 0x408 1 :: [] := by decide +kernel

theorem witness_BusyAccessRule :
    (pending 0x10).busy = true ∧ locate (pending 0x10).cfg (byteOffset 0) = some .id ∧
    locate (pending 0x10).cfg (byteOffset 0x40) = some (.buffer 0x100) ∧
    locate (pending 0x10).cfg (byteOffset 4) = some .ctrl ∧ (2#32).getLsbD 0 = false ∧
    State.reset.busy = false ∧ locate State.reset.cfg (byteOffset 0x8F) = some (.digest 0x23C) ∧ 15 < 16 := by
  decide +kernel

theorem reset_inv : State.reset.Inv := by decide +kernel

theorem witness_WriteReadsBack :
    State.reset.Inv ∧ State.reset.busy = false ∧ locate State.reset.cfg (byteOffset 0x0A2) = some .smode ∧
    locate State.reset.cfg (byteOffset 0xC80) = some (.ptInf 0) ∧
    locate State.reset.cfg (byteOffset 0x407) = some (.reg 0 7) ∧
    locate State.reset.cfg (byteOffset 0x07F) = some (.buffer 0x1FC) := ⟨reset_inv, by decide +kernel⟩

/-- The first and last word of each kind of register of the address map, on the reference block. -/
theorem witness_WriteReadsBack_map :
    (7 < State.reset.cfg.nw ∧ byteOffset 0x400 = 0x1000 + 0x100 * 0 + 4 * 0 ∧ byteOffset 0x5C7 = 0x1000 + 0x100 * 7 + 4 * 7) ∧
    (byteOffset 0x800 = 0x2000 + 4 * 0 ∧ byteOffset 0x847 = 0x2100 + 4 * 7 ∧ byteOffset 0x887 = 0x2200 + 4 * 7 ∧
      byteOffset 0x8C7 = 0x2300 + 4 * 7 ∧ byteOffset 0x907 = 0x2400 + 4 * 7 ∧ byteOffset 0x947 = 0x2500 + 4 * 7) ∧
    (byteOffset 0xF07 = 0x3000 + 0x400 * 3 + 4 * 7 ∧ byteOffset 0xF47 = 0x3100 + 0x400 * 3 + 4 * 7 ∧
      byteOffset 0xF80 = 0x3200 + 0x400 * 3) ∧
    (byteOffset 0x090 = 0x240 + 8 * 0 + 4 * 0 ∧ byteOffset 0x09F = 0x240 + 8 * 7 + 4 * 1 ∧ byteOffset 0x0A1 = 0x280 + 4 * 1 ∧
      byteOffset 0x0AF = 0x2B8 + 4 * 1 ∧ byteOffset 0x0A2 = 0x288 ∧ byteOffset 0x0AC = 0x2A0 + 4 * 4) := by decide +kernel

theorem witness_WriteLeavesOtherWords :
    State.reset.Inv ∧ State.reset.busy = false ∧ locate State.reset.cfg (byteOffset 0x090) = some (.sh 0 false) ∧
    Loc.isControl (.sh 0 false) = false ∧ (0x091 : WordIdx) ≠ 0x090 := ⟨reset_inv, by decide +kernel⟩

theorem witness_ByteLanes :
    Memory.wf State.reset.mem = true ∧ State.reset.busy = false ∧ 63 < 64 ∧ 79 < 80 ∧ 3 < 4 ∧
    (msgBase + 4 * 63 - 1 < msgBase + 4 * 63 ∧ msgBase + 4 * 63 + 4 ≤ digBase) := by decide +kernel

theorem witness_ResetRule : (3#32).getLsbD 0 = true ∧ (1#32).getLsbD 0 = true := by decide

theorem witness_StepKeepsInvariant :
    (pending 0x10).Inv ∧ (∃ t, step (pending 0x10) = .next t) ∧ step State.reset = .next State.reset :=
  ⟨by decide +kernel, ⟨_, rfl⟩, rfl⟩

/-- The state of a pending `SQRTMOD` whose modulus the test accepts with no rounds although it is composite. -/
def composite : State := withRegs 3 5 4 blum

theorem witness_StopsOnlyOnCompositeModulus :
    step (composite.withFetchWord 32 (encode (.sqrtmod 0 1 3 4 0)).toNat) = .fault .sqrtModCompositeModulus :=
  eq_fault_of_stopOf (by decide +kernel)

theorem witness_EgcdContract : 0 < 1 ∧ 0 < 46 := by decide

theorem witness_BezoutBounds :
    2 ^ 256 - 1 < 2 ^ Config.reference.opw ∧ 0 < 2 ^ Config.reference.opw ∧ 0 < 240 ∧ 0 < 46 ∧ 240 ≠ 46 := by
  decide +kernel

theorem witness_EgcdRule :
    ((5 : RegIdx) ≠ 6 ∧ (5 : RegIdx) ≠ 7 ∧ (6 : RegIdx) ≠ 7) ∧ (withRegs 0 240 1 46).WidthsFit ∧
    ((0 : RegIdx) ≠ 5 ∧ (0 : RegIdx) ≠ 6 ∧ (0 : RegIdx) ≠ 7) ∧
    ¬ ((1 : RegIdx) ≠ 1 ∧ (1 : RegIdx) ≠ 2 ∧ (1 : RegIdx) ≠ 2) := by decide +kernel

theorem witness_ModInverseContract : 1 ≤ 1 ∧ modInverse 5 1 = some 0 ∧ modInverse 6 9 = none := by decide +kernel

theorem witness_ModinvRule :
    State.reset.r[(0 : RegIdx)] = 0 ∧
    ((withRegs 0 6 1 9).r[(1 : RegIdx)] ≠ 0 ∧
      Nat.gcd ((withRegs 0 6 1 9).r[(0 : RegIdx)] % (withRegs 0 6 1 9).r[(1 : RegIdx)]) (withRegs 0 6 1 9).r[(1 : RegIdx)] ≠ 1) ∧
    ((withRegs 0 5 1 1).r[(1 : RegIdx)] ≠ 0 ∧
      Nat.gcd ((withRegs 0 5 1 1).r[(0 : RegIdx)] % (withRegs 0 5 1 1).r[(1 : RegIdx)]) (withRegs 0 5 1 1).r[(1 : RegIdx)] = 1) := by
  decide +kernel

theorem witness_PowModContract :
    1 ≤ 1 ∧ Nat.Prime 3 ∧ 3 ≠ 2 ∧ (4 % 3 ≠ 0 ∧ ∃ x, x * x % 3 = 4 % 3) ∧ (2 % 3 ≠ 0 ∧ ¬ ∃ x, x * x % 3 = 2 % 3) := by
  refine ⟨by decide, by norm_num, by decide, ⟨by decide, 1, rfl⟩, by decide, ?_⟩
  rintro ⟨x, hx⟩
  have h : ∀ y < 3, y * y % 3 ≠ 2 % 3 := by decide
  refine h (x % 3) (Nat.mod_lt _ (by decide)) ?_
  rw [← Nat.mul_mod]
  exact hx

theorem witness_PrimalityTestFacts :
    (3 ≤ 3 ∧ 3 % 2 = 1 ∧ Nat.Prime 3) ∧
    (3 ≤ 9 ∧ 9 % 2 = 1 ∧ ¬ Nat.Prime 9 ∧ ∃ q ∈ primeTable Config.reference, q ∣ 9) ∧
    (3 ≤ blum ∧ blum % 2 = 1 ∧ ∀ q ∈ primeTable Config.reference, ¬ q ∣ blum) :=
  ⟨by norm_num, ⟨by norm_num, by norm_num, by norm_num, by decide +kernel⟩, by decide +kernel⟩

theorem witness_TonelliShanksFindsRoot :
    (Nat.Prime 17 ∧ 17 ≠ 2 ∧ 0 < 2 ∧ 2 < 17 ∧ (∃ x, x * x % 17 = 2) ∧ 0 < 3 ∧ 3 < 17 ∧ isNonResidue 17 3 = true) ∧
    (Nat.Prime 3 ∧ 3 ≠ 2 ∧ 0 < 1 ∧ 1 < 3 ∧ (∃ x, x * x % 3 = 1) ∧ 0 < 2 ∧ 2 < 3 ∧ isNonResidue 3 2 = true) :=
  ⟨⟨by norm_num, by decide, by decide, by decide, ⟨6, rfl⟩, by decide, by decide, by decide +kernel⟩,
    ⟨by norm_num, by decide, by decide, by decide, ⟨1, rfl⟩, by decide, by decide, by decide +kernel⟩⟩

/-- `R[0] = 14, 3, 2` with `R[1] = 7`: R112's examples of no remainder, no root and two roots. -/
theorem witness_SqrtmodPrimeRule :
    (5 : RegIdx) ≠ 6 ∧ Nat.Prime (withRegs 0 14 1 7).r[(1 : RegIdx)] ∧ (withRegs 0 14 1 7).r[(1 : RegIdx)] ≠ 2 ∧
    (withRegs 0 14 1 7).r[(0 : RegIdx)] % 7 = 0 ∧
    ((withRegs 0 3 1 7).r[(0 : RegIdx)] % 7 ≠ 0 ∧ ¬ ∃ x, x * x % 7 = (withRegs 0 3 1 7).r[(0 : RegIdx)] % 7) ∧
    ((withRegs 0 2 1 7).r[(0 : RegIdx)] % 7 ≠ 0 ∧ ∃ x, x * x % 7 = (withRegs 0 2 1 7).r[(0 : RegIdx)] % 7) := by
  have e1 : (withRegs 0 14 1 7).r[(1 : RegIdx)] = 7 := by decide +kernel
  have e2 : (withRegs 0 3 1 7).r[(0 : RegIdx)] = 3 := by decide +kernel
  rw [e1, e2]
  refine ⟨by decide, by norm_num, by decide, by decide +kernel, ⟨by decide, ?_⟩, by decide +kernel, ⟨3, by decide +kernel⟩⟩
  rintro ⟨x, hx⟩
  have h : ∀ y < 7, y * y % 7 ≠ 3 := by decide
  refine h (x % 7) (Nat.mod_lt _ (by decide)) ?_
  rw [← Nat.mul_mod]
  exact hx

/-- Moduli 2, 4 and 9, and one that a drawn witness refuses. -/
theorem witness_SqrtmodRejectsModulus :
    (withRegs 0 0 1 2).r[(1 : RegIdx)] < 3 ∧ (withRegs 0 0 1 4).r[(1 : RegIdx)] % 2 = 0 ∧
    (¬ Nat.Prime 9 ∧ (withRegs 0 0 1 9).r[(1 : RegIdx)] = 9 ∧ ∃ q ∈ primeTable (withRegs 0 0 1 9).cfg, q ∣ 9) ∧
    (isProbablePrime (primeTable Config.reference) blum 1 ⟨[2], 0⟩).1 = false :=
  ⟨by decide +kernel, by decide +kernel, ⟨by norm_num, by decide +kernel, by decide +kernel⟩, by decide +kernel⟩

theorem witness_SqrtmodDrawIndependent :
    (5 : RegIdx) ≠ 6 ∧ Nat.Prime (withRegs 0 2 1 7).r[(1 : RegIdx)] ∧ (withRegs 0 2 1 7).r[(1 : RegIdx)] ≠ 2 := by
  rw [show (withRegs 0 2 1 7).r[(1 : RegIdx)] = 7 by decide +kernel]
  exact ⟨by decide, by norm_num, by decide⟩

/-- `1052651 = 1021 * 1031`, above `2^20`. -/
def large : Nat := 1052651

theorem not_prime_large : ¬ Nat.Prime large := by norm_num [large]

theorem witness_SqrtmodAcceptedCompositeStops :
    ((0 : RegIdx) ≠ 1 ∧ composite.r[(4 : RegIdx)] = blum ∧ 3 ≤ blum ∧ blum % 2 = 1 ∧ ¬ Nat.Prime blum ∧
      (isProbablePrime (primeTable composite.cfg) blum 0 composite.rnd).1 = true) ∧
    ((withRegs 3 5 4 large).r[(4 : RegIdx)] = large ∧ 2 ^ 20 ≤ large ∧ large % 2 = 1 ∧ ¬ Nat.Prime large ∧
      (isProbablePrime (primeTable Config.reference) large 0 ⟨[], 0⟩).1 = true) :=
  ⟨⟨by decide, by decide +kernel, by decide, by decide, not_prime_blum, by decide +kernel⟩,
    by decide +kernel, by decide, by decide, not_prime_large, by decide +kernel⟩

/-- The field prime of secp256k1 is taken for a prime by its witnesses (95_test_vectors.md section 2.2 has roots for it). -/
theorem test_curve_prime_taken : takenForPrime (2 ^ 256 - 2 ^ 32 - 977) = true := by decide +kernel

theorem witness_ShaBlockRule : ShaMode.isWide State.reset.smode = false ∧ 0 < 8 := by decide

/-- Tails of 55 and 56 bytes, one block and two. -/
theorem witness_ShaPadRule :
    (zeroBytes 55).length < shaBlockLen .sha256 ∧ (zeroBytes 55).length ≤ shaBlockLen .sha256 - shaLengthLen .sha256 - 1 ∧
    (zeroBytes 56).length < shaBlockLen .sha256 ∧ ¬ (zeroBytes 56).length ≤ shaBlockLen .sha256 - shaLengthLen .sha256 - 1 ∧
    (zeroBytes 127).length < shaBlockLen .sha512 := by decide +kernel

theorem witness_ShaFinalRule :
    shaBlockLen (shaReady abc).smode ≤ (64#8).toNat ∧ (63#8).toNat < shaBlockLen (shaReady abc).smode ∧
    Memory.wf (shaReady abc).mem = true := by decide +kernel

theorem witness_ShaStreamComputesHash :
    ShaHolds .sha256 [] (shaReady abc) ∧ Memory.wf (shaReady abc).mem = true ∧
    (3#8).toNat < shaBlockLen .sha256 ∧ ([] : List Byte).length + (3#8).toNat < 2 ^ 64 :=
  ⟨⟨rfl, rfl, rfl, rfl⟩, by decide +kernel, by decide +kernel, by decide +kernel⟩

theorem witness_RmdPadRule :
    (zeroBytes 55).length < 64 ∧ (zeroBytes 55).length ≤ 55 ∧ (zeroBytes 56).length < 64 ∧ ¬ (zeroBytes 56).length ≤ 55 := by
  decide +kernel

theorem witness_RmdFinalRule : 64 ≤ (64#8).toNat ∧ (63#8).toNat < 64 ∧ Memory.wf (rmdReady abc).mem = true := by
  decide +kernel

theorem witness_RmdStreamComputesHash :
    RmdHolds [] (rmdReady abc) ∧ Memory.wf (rmdReady abc).mem = true ∧ (3#8).toNat < rmdBlockLen ∧
    ([] : List Byte).length + (3#8).toNat < 2 ^ 64 :=
  ⟨⟨rfl, rfl, rfl⟩, by decide +kernel, by decide +kernel, by decide +kernel⟩

theorem witness_BlockKeyRule :
    (zeroBytes 64).length ≤ algBlockLen (.sha .sha256) ∧ algBlockLen (.sha .sha256) < (zeroBytes 65).length ∧
    algBlockLen .rmd160 < (zeroBytes 128).length := by decide +kernel

theorem witness_HmacInitRule :
    (4 < 5 ∧ 7 < 8) ∧ 128 < (129#8).toNat ∧ (128#8).toNat ≤ 128 ∧ Alg.sha .sha256 = .sha .sha256 := by decide

/-- An open HMAC over RIPEMD-160 with the key `password`. -/
def hmacRmdReady : State :=
  startInner .rmd160 (blockKeyOf .rmd160 password) (openHmac .rmd160 (blockKeyOf .rmd160 password) State.reset)

theorem witness_HmacFinalRule :
    State.reset.hact = false ∧ (hmacReady.hact = true ∧ hmacReady.halg = .sha .sha512) ∧
    algBlockLen hmacReady.halg ≤ (128#8).toNat ∧ (127#8).toNat < algBlockLen hmacReady.halg ∧
    Memory.wf hmacReady.mem = true ∧ (hmacRmdReady.hact = true ∧ hmacRmdReady.halg = .rmd160) := by decide +kernel

theorem witness_HmacStreamComputesHmac :
    HmacHolds (.sha .sha512) password [] hmacReady ∧ HmacHolds .rmd160 password [] hmacRmdReady ∧
    Memory.wf hmacReady.mem = true ∧ Memory.wf hmacRmdReady.mem = true ∧ (128#8).toNat ≤ 128 ∧
    (8#8).toNat < algBlockLen (.sha .sha512) ∧
    algBlockLen (.sha .sha512) + ([] : List Byte).length + (8#8).toNat < 2 ^ 64 :=
  ⟨⟨rfl, rfl, by decide +kernel, rfl, by decide +kernel, by decide +kernel, by decide +kernel⟩,
    ⟨rfl, rfl, by decide +kernel, by decide +kernel, by decide +kernel, by decide +kernel⟩,
    by decide +kernel, by decide +kernel, by decide, by decide +kernel, by decide +kernel⟩

theorem witness_EcModulusRule :
    State.reset.cp = 0 ∧ (toy .inf .inf).cp ≠ 0 ∧ Instr.ecNeg 0 0 ∈ [Instr.ecNeg 0 0] := by decide +kernel

theorem witness_EcOncurveRule : State.reset.cp = 0 ∧ (toy .inf .inf).cp ≠ 0 := by decide +kernel

/-- The toy curve of R209, the curve of R211's example, and the curve of R205's example. -/
theorem witness_EcDoubleContract :
    0 < 17 ∧ isOnCurve ⟨17, 2, 2⟩ (.affine 5 2) = false ∧ Nat.Prime 17 ∧ 17 ≠ 2 ∧
    (isOnCurve ⟨5, 1, 0⟩ (.affine 0 0) = true) ∧
    (isOnCurve ⟨15, 0, 0⟩ (.affine 6 6) = true ∧ 6 ≠ 0 ∧ Nat.gcd (2 * 6 % 15) 15 ≠ 1) ∧
    (isOnCurve ⟨17, 2, 2⟩ (.affine 5 1) = true ∧ 1 ≠ 0 ∧ Nat.gcd (2 * 1 % 17) 17 = 1) :=
  ⟨by decide, by decide +kernel, by norm_num, by decide, by decide +kernel, by decide +kernel, by decide +kernel⟩

theorem witness_EcAddContract :
    0 < 17 ∧ (isOnCurve ⟨17, 2, 2⟩ (.affine 5 2) = false ∨ isOnCurve ⟨17, 2, 2⟩ .inf = false) ∧
    isOnCurve ⟨17, 2, 2⟩ (.affine 5 1) = true ∧ isOnCurve ⟨17, 2, 2⟩ (.affine 5 16) = true ∧ 1 ≠ 16 ∧
    (isOnCurve ⟨15, 0, 0⟩ (.affine 0 0) = true ∧ isOnCurve ⟨15, 0, 0⟩ (.affine 6 6) = true ∧ 0 ≠ 6 ∧
      Int.gcd ((6 : Int) - 0) 15 ≠ 1) ∧
    (isOnCurve ⟨17, 2, 2⟩ (.affine 6 3) = true ∧ 5 ≠ 6 ∧ Int.gcd ((6 : Int) - 5) 17 = 1) := by decide +kernel

theorem witness_EcMulContract :
    0 < 17 ∧ isOnCurve ⟨17, 2, 2⟩ (.affine 5 2) = false ∧ isOnCurve ⟨17, 2, 2⟩ (.affine 5 1) = true ∧ 1 < 17 ∧
    (0 < 1 ∧ 1 < 17) ∧ (0 < 16 ∧ 16 < 17) := by decide +kernel

theorem witness_EcClosedOverPrimeField :
    Nat.Prime 17 ∧ 17 ≠ 2 ∧ isOnCurve ⟨17, 2, 2⟩ (.affine 5 1) = true ∧ isOnCurve ⟨17, 2, 2⟩ (.affine 6 3) = true :=
  ⟨by norm_num, by decide, by decide +kernel, by decide +kernel⟩

theorem witness_EcNegationAndCommutativity :
    17 % 2 = 1 ∧ Nat.Prime 17 ∧ 17 ≠ 2 ∧ isOnCurve ⟨17, 2, 2⟩ (.affine 5 1) = true ∧ isOnCurve ⟨17, 2, 2⟩ .inf = true :=
  ⟨by decide, by norm_num, by decide, by decide +kernel, rfl⟩

theorem witness_EcGroupCommandsComplete :
    Nat.Prime (toy (.affine 5 1) (.affine 6 3)).cp ∧ (toy (.affine 5 1) (.affine 6 3)).cp ≠ 2 ∧
    isOnCurve (curveOf (toy (.affine 5 1) (.affine 6 3))) (readPoint (toy (.affine 5 1) (.affine 6 3)) 0) = true ∧
    isOnCurve (curveOf (toy (.affine 5 1) (.affine 6 3))) (readPoint (toy (.affine 5 1) (.affine 6 3)) 1) = true := by
  rw [show (toy (.affine 5 1) (.affine 6 3)).cp = 17 from rfl]
  exact ⟨by norm_num, by decide, by decide +kernel, by decide +kernel⟩

theorem witness_EcGroupCommandRules :
    State.reset.cp = 0 ∧ (toy .inf .inf).cp ≠ 0 ∧
    ecAdd ⟨17, 2, 2⟩ (.affine 5 1) (.affine 5 2) = .error .notOnCurve ∧
    ecAdd ⟨15, 0, 0⟩ (.affine 0 0) (.affine 6 6) = .error .noInverse ∧
    ecMul ⟨17, 2, 2⟩ 17 (.affine 5 1) = .ok .inf ∧ ecDouble ⟨17, 2, 2⟩ (.affine 5 1) = .ok (.affine 6 3) := by
  decide +kernel

theorem witness_EcNegRule :
    State.reset.cp = 0 ∧ (toy .inf (.affine 5 1)).cp ≠ 0 ∧ (toy .inf (.affine 5 1)).pt[(0 : PtIdx)].inf = true ∧
    (toy .inf (.affine 5 1)).pt[(1 : PtIdx)].inf = false := by decide +kernel

end Sys2Proof.Tests
end

/-! The invariant of the machine: every write a command or the host makes keeps registers and buffers within their bounds, and
every completion and every host access keeps `STATUS` consistent. -/

namespace Sys2Proof.Machine

/-! ## The part of the invariant that a command's writes keep

`State.Inv` is what the registers and the buffers hold, and what `STATUS` says. A command's own writes touch the first part
alone, and the completion that ends it sets the second. -/

/-- The registers and the byte memories fit (R5, R21, R30 to R37). -/
def State.DataFits (s : State) : Prop := s.WidthsFit ∧ s.BuffersFit

theorem State.Inv.dataFits {s : State} (h : s.Inv) : s.DataFits := ⟨h.1, h.2.1⟩

theorem State.DataFits.readReg_lt {s : State} (h : s.DataFits) (i : RegIdx) : readReg s i < 2 ^ s.cfg.opw := h.1.1 i

theorem State.DataFits.pt_lt {s : State} (h : s.DataFits) (i : PtIdx) :
    s.pt[i].x < 2 ^ s.cfg.opw ∧ s.pt[i].y < 2 ^ s.cfg.opw := h.1.2.1 i

theorem State.DataFits.readCurveReg_lt {s : State} (h : s.DataFits) (c : CurveReg) :
    readCurveReg s c < 2 ^ s.cfg.opw := by
  obtain ⟨⟨-, -, hp, ha, hb, hx, hy, hn⟩, -⟩ := h
  cases c with
  | cp => exact hp
  | ca => exact ha
  | cb => exact hb
  | gx => exact hx
  | gy => exact hy
  | cn => exact hn

theorem inv_of_dataFits {s : State} (hdata : s.DataFits) (hstatus : s.StatusFits) : s.Inv :=
  ⟨hdata.1, hdata.2, hstatus⟩

/-- A vector keeps a property of its elements when an element with that property is put in. -/
theorem forall_getElem_set {α : Type} {n : Nat} {P : α → Prop} {v : Vector α n} (h : ∀ j : Fin n, P v[j]) (i : Fin n)
    {x : α} (hx : P x) (j : Fin n) : P (v.set i x)[j] := by
  simp only [Fin.getElem_fin, Vector.getElem_set]
  split_ifs
  · exact hx
  · exact h j

section

variable {s : State}

theorem dataFits_writeReg (h : s.DataFits) {v : Nat} (hv : v < 2 ^ s.cfg.opw) (i : RegIdx) :
    (writeReg i v s).DataFits := by
  obtain ⟨⟨hr, hrest⟩, hbuf⟩ := h
  exact ⟨⟨forall_getElem_set (P := (· < 2 ^ s.cfg.opw)) hr i hv, hrest⟩, hbuf⟩

theorem dataFits_writePointReg (h : s.DataFits) {x y : Nat} (hx : x < 2 ^ s.cfg.opw) (hy : y < 2 ^ s.cfg.opw) (inf : Bool)
    (i : PtIdx) : (writePointReg i ⟨x, y, inf⟩ s).DataFits := by
  obtain ⟨⟨hr, hpt, hcurve⟩, hbuf⟩ := h
  have hset := forall_getElem_set
    (P := fun p : PointReg => p.x < 2 ^ s.cfg.opw ∧ p.y < 2 ^ s.cfg.opw) hpt i (x := ⟨x, y, inf⟩) ⟨hx, hy⟩
  exact ⟨⟨hr, hset, hcurve⟩, hbuf⟩

theorem dataFits_writeCurveReg (h : s.DataFits) {v : Nat} (hv : v < 2 ^ s.cfg.opw) (c : CurveReg) :
    (writeCurveReg c v s).DataFits := by
  obtain ⟨⟨hr, hpt, hp, ha, hb, hx, hy, hn⟩, hbuf⟩ := h
  cases c with
  | cp => exact ⟨⟨hr, hpt, hv, ha, hb, hx, hy, hn⟩, hbuf⟩
  | ca => exact ⟨⟨hr, hpt, hp, hv, hb, hx, hy, hn⟩, hbuf⟩
  | cb => exact ⟨⟨hr, hpt, hp, ha, hv, hx, hy, hn⟩, hbuf⟩
  | gx => exact ⟨⟨hr, hpt, hp, ha, hb, hv, hy, hn⟩, hbuf⟩
  | gy => exact ⟨⟨hr, hpt, hp, ha, hb, hx, hv, hn⟩, hbuf⟩
  | cn => exact ⟨⟨hr, hpt, hp, ha, hb, hx, hy, hv⟩, hbuf⟩

/-- Bytes stored inside the buffers keep them canonical and in their places. -/
theorem dataFits_storeBytes (h : s.DataFits) {bs : List Byte} {base : Nat} (hlo : msgBase ≤ base)
    (hhi : base + bs.length ≤ bufEnd) : { s with mem := storeBytes s.mem base bs }.DataFits := by
  obtain ⟨hw, hwf, hin, hkey⟩ := h
  exact ⟨hw, storeBytes_wf bs base hwf, storeBytes_within bs base hlo hhi hin, hkey⟩

/-- A digest of at most 64 bytes and the zeros after it fill `DIG` (R32). -/
theorem dataFits_writeDigest (h : s.DataFits) {d : List Byte} (hd : d.length ≤ 64) : (writeDigest d s).DataFits :=
  dataFits_storeBytes h (by decide) (by
    simp only [List.length_append, length_zeroBytes, digBase, bufEnd]
    omega)

/-- A block key of at most 128 bytes fits `HK0` (R35). -/
theorem dataFits_openHmac (h : s.DataFits) (alg : Alg) {k0 : List Byte} (hk : k0.length ≤ 128) :
    (openHmac alg k0 s).DataFits := by
  obtain ⟨hw, hwf, hin, -⟩ := h
  exact ⟨hw, hwf, hin, storeBytes_wf k0 0 rfl, storeBytes_within k0 0 le_rfl (by omega) rfl⟩

/-! The other writes of commands and the `STATUS` fields are no part of it. -/

@[simp] theorem dataFits_accept {w : Word} : (accept w s).DataFits ↔ s.DataFits := Iff.rfl

@[simp] theorem dataFits_finish {e : ErrCode} {k : BitVec 2} : (finish e k s).DataFits ↔ s.DataFits := Iff.rfl

@[simp] theorem dataFits_writeSha {h : ShaChain} {n : DWord} : (writeSha h n s).DataFits ↔ s.DataFits := Iff.rfl

@[simp] theorem dataFits_writeShaMode {m : ShaMode} : (writeShaMode m s).DataFits ↔ s.DataFits := Iff.rfl

@[simp] theorem dataFits_writeRmd {h : RmdChain} {n : DWord} : (writeRmd h n s).DataFits ↔ s.DataFits := Iff.rfl

@[simp] theorem dataFits_closeHmac : (closeHmac s).DataFits ↔ s.DataFits := Iff.rfl

@[simp] theorem dataFits_writeRnd {port : RndPort} : (writeRnd port s).DataFits ↔ s.DataFits := Iff.rfl

end

/-! ## Points with bounded coordinates -/

/-- Both coordinates lie below a bound; the point at infinity has none. -/
def Point.Below (n : Nat) : Point → Prop
  | .inf => True
  | .affine x y => x < n ∧ y < n

theorem Point.Below.mono {m n : Nat} (hmn : m ≤ n) : ∀ {p : Point}, p.Below m → p.Below n
  | .inf, _ => trivial
  | .affine _ _, ⟨hx, hy⟩ => ⟨hx.trans_le hmn, hy.trans_le hmn⟩

theorem readPoint_below {s : State} (h : s.DataFits) (i : PtIdx) : (readPoint s i).Below (2 ^ s.cfg.opw) := by
  unfold readPoint PointReg.value
  split_ifs
  · trivial
  · exact h.pt_lt i

theorem dataFits_writePoint {s : State} (h : s.DataFits) {p : Point} (hp : p.Below (2 ^ s.cfg.opw)) (i : PtIdx) :
    (writePoint i p s).DataFits := by
  cases p with
  | inf => exact dataFits_writePointReg h (Nat.two_pow_pos _) (Nat.two_pow_pos _) true i
  | affine x y => exact dataFits_writePointReg h hp.1 hp.2 false i

/-! ## Bounds on the results of the modular-arithmetic unit -/

/-- The remainders of `Egcd` stay below a bound on the two numbers it starts from (R101). -/
theorem egcdLoop_g_lt {b : Nat} : ∀ (n r0 r1 : Nat) (s0 s1 t0 t1 : Int), r0 < b → r1 < b →
    (egcdLoop n r0 r1 s0 s1 t0 t1).g < b
  | 0, _, _, _, _, _, _, h0, _ => h0
  | n + 1, r0, r1, s0, s1, t0, t1, h0, h1 => by
    rw [egcdLoop]
    split_ifs with hz
    · exact h0
    · exact egcdLoop_g_lt n _ _ _ _ _ _ h1 ((Nat.mod_lt r0 (Nat.pos_of_ne_zero hz)).trans h1)

theorem egcd_g_lt {b x y : Nat} (hx : x < b) (hy : y < b) : (egcd x y).g < b := egcdLoop_g_lt _ _ _ _ _ _ _ hx hy

/-- An inverse is a residue (R105). -/
theorem modInverse_lt {x n y : Nat} (hn : 0 < n) (h : modInverse x n = some y) : y < n := by
  unfold modInverse at h
  dsimp only at h
  split_ifs at h
  cases h
  exact residue_lt _ hn

theorem powMod_lt (a e : Nat) {m : Nat} (hm : 0 < m) : powMod a e m < m := by
  rw [powMod_eq a e hm]
  exact Nat.mod_lt _ hm

/-- The loop of `TonelliShanks` keeps `r` a residue (R110). -/
theorem shanksLoop_lt {p : Nat} : ∀ {n m c t r root : Nat}, r < p → shanksLoop p n m c t r = some root → root < p
  | 0, m, c, t, r, root, hr, h => by
    unfold shanksLoop at h
    split_ifs at h
    cases h
    exact hr
  | n + 1, m, c, t, r, root, hr, h => by
    unfold shanksLoop at h
    split_ifs at h
    · cases h
      exact hr
    · split at h
      · cases h
      · exact shanksLoop_lt (Nat.mod_lt _ (by omega)) h

theorem tonelliShanks_lt {a p z root : Nat} (hp : 0 < p) (h : tonelliShanks a p z = some root) : root < p :=
  shanksLoop_lt (powMod_lt _ _ hp) h

/-- The two roots of `SqrtMod` do not exceed the modulus (R109). -/
theorem sqrtModPrime_twoRoots_le {n p r1 r2 : Nat} {port port' : RndPort} (hp : 0 < p)
    (h : sqrtModPrime n p port = (.twoRoots r1 r2, port')) : r1 ≤ p ∧ r2 ≤ p := by
  unfold sqrtModPrime at h
  dsimp only at h
  split_ifs at h
  · cases h
  · cases h
  · split at h
    · rename_i root hroot
      have := tonelliShanks_lt hp hroot
      cases h
      omega
    · cases h

theorem sqrtMod_twoRoots_le {table : List Nat} {n p rounds r1 r2 : Nat} {port port' : RndPort}
    (h : sqrtMod table n p rounds port = (.twoRoots r1 r2, port')) : r1 ≤ p ∧ r2 ≤ p := by
  unfold sqrtMod at h
  split at h
  · cases h
  · split at h
    · cases h
    · split at h
      · exact sqrtModPrime_twoRoots_le (by omega) h
      · cases h

/-! ## Bounds on the results of the elliptic-curve unit -/

theorem below_of_isOnCurve {c : Curve} : ∀ {p : Point}, isOnCurve c p = true → p.Below c.p
  | .inf, _ => trivial
  | .affine x y, h => by
    simp only [isOnCurve, Bool.and_eq_true, decide_eq_true_eq] at h
    exact h.1

theorem thirdPoint_below {p : Nat} (hp : 0 < p) (lam x1 y1 x2 : Nat) : (thirdPoint p lam x1 y1 x2).Below p :=
  ⟨residue_lt _ hp, residue_lt _ hp⟩

/-- What `EcDouble` answers has reduced coordinates (R204). -/
theorem ecDouble_below {c : Curve} (hc : 0 < c.p) {p q : Point} (h : ecDouble c p = .ok q) : q.Below c.p := by
  unfold ecDouble at h
  split_ifs at h
  cases p with
  | inf => cases h; trivial
  | affine x y =>
    dsimp only at h
    split_ifs at h
    · cases h; trivial
    · split at h
      · cases h
      · cases h; exact thirdPoint_below hc _ _ _ _

/-- What `EcAdd` answers has reduced coordinates (R205): one of its arguments, which are on the curve, a double, or the
third point of a chord. -/
theorem ecAdd_below {c : Curve} (hc : 0 < c.p) {p q r : Point} (h : ecAdd c p q = .ok r) : r.Below c.p := by
  unfold ecAdd at h
  split_ifs at h with hon
  obtain ⟨hp, hq⟩ := Bool.and_eq_true_iff.1 hon
  cases p with
  | inf => cases h; exact below_of_isOnCurve hq
  | affine x1 y1 =>
    cases q with
    | inf => cases h; exact below_of_isOnCurve hp
    | affine x2 y2 =>
      dsimp only at h
      split_ifs at h
      · exact ecDouble_below hc h
      · cases h; trivial
      · split at h
        · cases h
        · cases h; exact thirdPoint_below hc _ _ _ _

/-- The accumulator of `EcMul` keeps reduced coordinates (R207). -/
theorem mulLoop_below {c : Curve} (hc : 0 < c.p) {p : Point} : ∀ {bits : List Bool} {acc r : Point}, acc.Below c.p →
    mulLoop c p bits acc = .ok r → r.Below c.p
  | [], acc, r, hacc, h => by
    cases h
    exact hacc
  | bit :: bits, acc, r, hacc, h => by
    unfold mulLoop at h
    split at h
    · cases h
    · rename_i twice htwice
      split_ifs at h
      · split at h
        · cases h
        · rename_i sum hsum
          exact mulLoop_below hc (ecAdd_below hc hsum) h
      · exact mulLoop_below hc (ecDouble_below hc htwice) h

theorem ecMul_below {c : Curve} (hc : 0 < c.p) {k : Nat} {p r : Point} (h : ecMul c k p = .ok r) : r.Below c.p := by
  unfold ecMul at h
  split_ifs at h
  exact mulLoop_below (acc := .inf) hc trivial h

/-- A negated point keeps its abscissa, and its ordinate is a residue (R206). -/
theorem ecNegate_below {c : Curve} (hc : 0 < c.p) {n : Nat} (hn : c.p ≤ n) : ∀ {p : Point}, p.Below n →
    (ecNegate c p).Below n
  | .inf, _ => trivial
  | .affine _ _, ⟨hx, _⟩ => ⟨hx, (residue_lt _ hc).trans_le hn⟩

/-! ## Lengths of digests and block keys -/

/-- A SHA-2 digest has the length of its mode (R138). -/
theorem length_shaDigest (m : ShaMode) (h : ShaChain) : (shaDigest m h).length = shaDigestLen m := by
  cases m <;> simp [shaDigest, shaWordLen, shaDigestLen, ShaMode.isWide, List.length_flatMap]

/-- A RIPEMD-160 digest has 20 bytes (R166). -/
theorem length_rmdDigest (h : RmdChain) : (rmdDigest h).length = 20 := by
  simp [rmdDigest, List.length_flatMap]

/-- A block key is one block long, since a digest is no longer than a block (R183). -/
theorem HashFn.length_blockKey {α : Type} {f : HashFn α} (hf : ∀ h, (f.digest h).length ≤ f.blockLen)
    (key : List Byte) : (f.blockKey key).length = f.blockLen := by
  have hhash : (f.hash key).length ≤ f.blockLen := hf _
  unfold HashFn.blockKey
  dsimp only
  split_ifs <;> simp only [List.length_append, length_zeroBytes] <;> omega

theorem shaDigestLen_le (m : ShaMode) : shaDigestLen m ≤ 64 := by cases m <;> decide

theorem shaDigestLen_le_blockLen (m : ShaMode) : shaDigestLen m ≤ shaBlockLen m := by cases m <;> decide

theorem shaBlockLen_le (m : ShaMode) : shaBlockLen m ≤ 128 := by cases m <;> decide

/-- A block key has the block size of its algorithm (R183). -/
theorem length_blockKeyOf (alg : Alg) (key : List Byte) : (blockKeyOf alg key).length = algBlockLen alg := by
  cases alg with
  | sha m => exact HashFn.length_blockKey (fun h => (length_shaDigest m h).trans_le (shaDigestLen_le_blockLen m)) key
  | rmd160 => exact HashFn.length_blockKey (fun h => (length_rmdDigest h).trans_le (by decide)) key

/-- No block is longer than `HK0` (R180). -/
theorem algBlockLen_le : ∀ alg : Alg, algBlockLen alg ≤ 128
  | .sha m => shaBlockLen_le m
  | .rmd160 => by decide

/-! ## Every command ends in the invariant -/

/-- If there is a next state, it meets the invariant. -/
def EndsInInv (o : Result) : Prop := ∀ t, o = .next t → t.Inv

theorem endsInInv_next {s : State} (h : s.Inv) : EndsInInv (.next s) := by
  rintro t ⟨⟩
  exact h

/-- A completion writes a result kind of R26 and no error, whatever `STATUS` held before (R44). -/
theorem endsInInv_complete {k : BitVec 2} {s : State} (h : s.DataFits) (hk : k ≤ 2#2) : EndsInInv (complete k s) :=
  endsInInv_next <| inv_of_dataFits (dataFits_finish.2 h) ⟨hk, fun he => absurd rfl he, nofun⟩

/-- An error completion writes result kind 0 (R44, R242). -/
theorem endsInInv_raiseError {e : ErrCode} {s : State} (h : s.DataFits) : EndsInInv (raiseError e s) :=
  endsInInv_next <| inv_of_dataFits (dataFits_finish.2 h) ⟨(by decide : (0 : BitVec 2) ≤ 2#2), fun _ => rfl, nofun⟩

theorem endsInInv_fault (f : Fault) : EndsInInv (.fault f) := by
  rintro t ⟨⟩

/-- Behind the modulus check the modulus is positive (R201). -/
theorem endsInInv_withModulus {s : State} {go : Result} (h : s.DataFits) (hgo : 0 < s.cp → EndsInInv go) :
    EndsInInv (withModulus s go) := by
  rcases withModulus_cases s go with ⟨-, heq⟩ | ⟨hp, heq⟩ <;> rw [heq]
  · exact endsInInv_raiseError h
  · exact hgo (Nat.pos_of_ne_zero hp)

/-- A point below the modulus fits a point register, since the modulus fits `CP`. -/
theorem endsInInv_completePoint {s : State} (h : s.DataFits) (pd : PtIdx) {r : Except EcError Point}
    (hr : ∀ p, r = .ok p → p.Below s.cp) : EndsInInv (completePoint pd r s) := by
  have hcp : s.cp < 2 ^ s.cfg.opw := h.readCurveReg_lt .cp
  cases r with
  | error e => exact endsInInv_raiseError h
  | ok p => exact endsInInv_complete (dataFits_writePoint h ((hr p rfl).mono hcp.le) pd) (by decide)

section

variable {s : State} (h : s.DataFits)
include h

theorem endsInInv_execGcd (rd ra rb : RegIdx) : EndsInInv (execGcd rd ra rb s) :=
  endsInInv_complete (dataFits_writeReg h (egcd_g_lt (h.readReg_lt ra) (h.readReg_lt rb)) rd) (by decide)

theorem endsInInv_execEgcd (rd rc re ra rb : RegIdx) : EndsInInv (execEgcd rd rc re ra rb s) := by
  have hpow : 0 < 2 ^ s.cfg.opw := Nat.two_pow_pos _
  have hg := dataFits_writeReg h (egcd_g_lt (h.readReg_lt ra) (h.readReg_lt rb)) rd
  unfold execEgcd
  split_ifs
  · exact endsInInv_complete
      (dataFits_writeReg (dataFits_writeReg hg (residue_lt _ hpow) rc) (residue_lt _ hpow) re) (by decide)
  · exact endsInInv_raiseError h

theorem endsInInv_execModinv (rd ra rb : RegIdx) : EndsInInv (execModinv rd ra rb s) := by
  unfold execModinv
  split_ifs with hz
  · exact endsInInv_raiseError h
  · split
    · exact endsInInv_raiseError h
    · rename_i y hy
      have hlt := (modInverse_lt (Nat.pos_of_ne_zero hz) hy).trans (h.readReg_lt rb)
      exact endsInInv_complete (dataFits_writeReg h hlt rd) (by decide)

theorem endsInInv_execSqrtmod (rd rc ra rb : RegIdx) (rounds : BitVec 8) :
    EndsInInv (execSqrtmod rd rc ra rb rounds s) := by
  unfold execSqrtmod
  split_ifs
  · split
    · exact endsInInv_raiseError (dataFits_writeRnd.2 h)
    · exact endsInInv_complete (dataFits_writeRnd.2 h) (by decide)
    · exact endsInInv_complete (dataFits_writeReg (dataFits_writeRnd.2 h) (Nat.two_pow_pos _) rd) (by decide)
    · rename_i r1 r2 port heq
      obtain ⟨h1, h2⟩ := sqrtMod_twoRoots_le heq
      have hp := h.readReg_lt rb
      have hrd := dataFits_writeReg (dataFits_writeRnd (port := port).2 h) (h1.trans_lt hp) rd
      exact endsInInv_complete (dataFits_writeReg hrd (h2.trans_lt hp) rc) (by decide)
    · exact endsInInv_fault _
  · exact endsInInv_raiseError h

theorem endsInInv_execShaFinal (nbytes : BitVec 8) : EndsInInv (execShaFinal nbytes s) := by
  unfold execShaFinal
  dsimp only
  split_ifs
  · exact endsInInv_raiseError h
  · exact endsInInv_complete (dataFits_writeDigest (dataFits_writeSha.2 h)
      ((length_shaDigest _ _).trans_le (shaDigestLen_le _))) (by decide)

theorem endsInInv_execRmdFinal (nbytes : BitVec 8) : EndsInInv (execRmdFinal nbytes s) := by
  unfold execRmdFinal
  dsimp only
  split_ifs
  · exact endsInInv_raiseError h
  · exact endsInInv_complete (dataFits_writeDigest (dataFits_writeRmd.2 h)
      ((length_rmdDigest _).trans_le (by decide))) (by decide)

theorem dataFits_startInner (alg : Alg) (k0 : List Byte) : (startInner alg k0 s).DataFits := by
  cases alg with
  | sha m => exact dataFits_writeSha.2 (dataFits_writeShaMode.2 h)
  | rmd160 => exact dataFits_writeRmd.2 h

theorem dataFits_finishInner (alg : Alg) (nbytes : Nat) : (finishInner alg nbytes s).DataFits := by
  cases alg with
  | sha m =>
    exact dataFits_closeHmac.2 (dataFits_writeDigest (dataFits_writeSha.2 (dataFits_writeShaMode.2 h))
      ((length_shaDigest m _).trans_le (shaDigestLen_le m)))
  | rmd160 =>
    exact dataFits_closeHmac.2 (dataFits_writeDigest (dataFits_writeRmd.2 h)
      ((length_rmdDigest _).trans_le (by decide)))

theorem endsInInv_execHmacInit (alg : Alg) (klen : BitVec 8) : EndsInInv (execHmacInit alg klen s) := by
  unfold execHmacInit
  dsimp only
  split_ifs
  · exact endsInInv_raiseError h
  · have hlen := (length_blockKeyOf alg (keyBytes s klen.toNat)).trans_le (algBlockLen_le alg)
    exact endsInInv_complete (dataFits_startInner (dataFits_openHmac h alg hlen) alg _) (by decide)

theorem endsInInv_execHmacFinal (nbytes : BitVec 8) : EndsInInv (execHmacFinal nbytes s) := by
  unfold execHmacFinal
  split_ifs
  · exact endsInInv_raiseError h
  · exact endsInInv_raiseError h
  · exact endsInInv_complete (dataFits_finishInner h _ _) (by decide)

theorem endsInInv_execEcOncurve (pa : PtIdx) : EndsInInv (execEcOncurve pa s) :=
  endsInInv_withModulus h fun _ => endsInInv_complete h (by split_ifs <;> decide)

theorem endsInInv_execEcNeg (pd pa : PtIdx) : EndsInInv (execEcNeg pd pa s) :=
  endsInInv_withModulus h fun hp => by
    have hcp : s.cp < 2 ^ s.cfg.opw := h.readCurveReg_lt .cp
    have hneg := ecNegate_below (c := curveOf s) hp hcp.le (readPoint_below h pa)
    exact endsInInv_complete (dataFits_writePoint h hneg pd) (by decide)

theorem endsInInv_execEcLdg (pd : PtIdx) : EndsInInv (execEcLdg pd s) := by
  have hbase : (Point.affine s.gx s.gy).Below (2 ^ s.cfg.opw) := ⟨h.readCurveReg_lt .gx, h.readCurveReg_lt .gy⟩
  exact endsInInv_complete (dataFits_writePoint h hbase pd) (by decide)

/-- Every command that completes ends in the invariant; what `STATUS` held before does not matter (R5, R44). -/
theorem endsInInv_exec (i : Instr) : EndsInInv (exec i s) := by
  cases i with
  | gcd rd ra rb => exact endsInInv_execGcd h rd ra rb
  | egcd rd rc re ra rb => exact endsInInv_execEgcd h rd rc re ra rb
  | modinv rd ra rb => exact endsInInv_execModinv h rd ra rb
  | sqrtmod rd rc ra rb rounds => exact endsInInv_execSqrtmod h rd rc ra rb rounds
  | shaInit alg => exact endsInInv_complete (by simpa using h) (by decide)
  | shaBlock => exact endsInInv_complete (by simpa using h) (by decide)
  | shaFinal nbytes => exact endsInInv_execShaFinal h nbytes
  | rmdInit => exact endsInInv_complete (by simpa using h) (by decide)
  | rmdBlock => exact endsInInv_complete (by simpa using h) (by decide)
  | rmdFinal nbytes => exact endsInInv_execRmdFinal h nbytes
  | hmacInit alg klen => exact endsInInv_execHmacInit h alg klen
  | hmacFinal nbytes => exact endsInInv_execHmacFinal h nbytes
  | ecOncurve pa => exact endsInInv_execEcOncurve h pa
  | ecAdd pd pa pb =>
    exact endsInInv_withModulus h fun hp => endsInInv_completePoint h pd fun _ => ecAdd_below (c := curveOf s) hp
  | ecDbl pd pa =>
    exact endsInInv_withModulus h fun hp => endsInInv_completePoint h pd fun _ => ecDouble_below (c := curveOf s) hp
  | ecMul pd pa rk =>
    exact endsInInv_withModulus h fun hp => endsInInv_completePoint h pd fun _ => ecMul_below (c := curveOf s) hp
  | ecNeg pd pa => exact endsInInv_execEcNeg h pd pa
  | ecLdg pd => exact endsInInv_execEcLdg h pd

end

theorem endsInInv_engineTurn {s : State} (h : s.Inv) : EndsInInv (engineTurn s) := by
  rcases engineTurn_cases s with ⟨-, hturn⟩ | ⟨-, hturn⟩ <;> rw [hturn]
  · rcases engineStep_cases s with ⟨i, -, hstep⟩ | ⟨e, -, hstep⟩ <;> rw [hstep]
    · exact endsInInv_exec h.dataFits i
    · exact endsInInv_raiseError h.dataFits
  · exact endsInInv_next h

/-! ## Host accesses keep the invariant -/

/-- The word of a location lies inside what holds it: a word of `MSG` or `KEY` in these buffers, and word `j` of an `OPW`-bit
register below `NW` (R61, R66). -/
def Loc.InWindow (nw : Nat) : Loc → Prop
  | .buffer off => msgBase ≤ off ∧ off + 4 ≤ digBase
  | .reg _ j | .curve _ j | .ptX _ j | .ptY _ j => j < nw
  | .id | .config | .cmd | .status | .ctrl | .fault | .digest _ | .sh .. | .slen _ | .smode | .rh _ | .rlen _ | .ptInf _ =>
    True

theorem inWindow_of_locateControl {nw off : Nat} {loc : Loc} (h : locateControl off = some loc) : loc.InWindow nw := by
  unfold locateControl at h
  split_ifs at h <;> cases h <;> trivial

theorem inWindow_of_locateHash {nw off : Nat} {loc : Loc} (h : locateHash off = some loc) : loc.InWindow nw := by
  unfold locateHash at h
  split_ifs at h <;> cases h <;> trivial

theorem inWindow_of_locateWide {nw off : Nat} {loc : Loc} (h : locateWide nw off = some loc) : loc.InWindow nw := by
  unfold locateWide at h
  dsimp only at h
  split at h
  · split_ifs at h with hreg
    cases h
    exact hreg.2
  split at h
  · split_ifs at h with hj
    obtain ⟨c, -, rfl⟩ := Option.map_eq_some_iff.1 h
    exact hj
  split at h
  · split_ifs at h with hj
    cases h
    exact hj
  · split_ifs at h with hj
    cases h
    exact hj
  · split_ifs at h
    cases h
    trivial
  · cases h

/-- The address map places every word inside what holds it (R61). -/
theorem inWindow_of_locate {c : Config} {idx : WordIdx} {loc : Loc} (h : locate c (byteOffset idx) = some loc) :
    loc.InWindow c.nw := by
  unfold locate at h
  split_ifs at h with h1 h2 h3 h4 h5
  · exact inWindow_of_locateControl h
  · cases h
    unfold byteOffset at h1 h2 ⊢
    exact ⟨by simp only [msgBase]; omega, by simp only [digBase]; omega⟩
  · cases h
    trivial
  · exact inWindow_of_locateHash h
  · exact inWindow_of_locateWide h

/-- Replacing a word below `NW` keeps a number within `OPW` bits (R62). -/
theorem setWordOf_lt {v j nw : Nat} (hv : v < 2 ^ (32 * nw)) (hj : j < nw) (w : Word) :
    setWordOf v j w < 2 ^ (32 * nw) := by
  obtain ⟨k, rfl⟩ : ∃ k, nw = j + 1 + k := ⟨nw - (j + 1), by omega⟩
  have hsplit : 2 ^ (32 * (j + 1 + k)) = 2 ^ (32 * j) * (2 ^ 32 * 2 ^ (32 * k)) := by
    rw [← pow_add, ← pow_add]
    congr 1
    ring
  have hlow : v % 2 ^ (32 * j) < 2 ^ (32 * j) := Nat.mod_lt _ (Nat.two_pow_pos _)
  have hhigh : v / 2 ^ (32 * (j + 1)) < 2 ^ (32 * k) := by
    refine Nat.div_lt_of_lt_mul (hv.trans_eq ?_)
    rw [← pow_add]
    congr 1
    ring
  have hupper : w.toNat + 2 ^ 32 * (v / 2 ^ (32 * (j + 1))) < 2 ^ 32 * 2 ^ (32 * k) := by
    have := w.isLt
    omega
  rw [hsplit, setWordOf]
  calc v % 2 ^ (32 * j) + 2 ^ (32 * j) * (w.toNat + 2 ^ 32 * (v / 2 ^ (32 * (j + 1))))
      < 2 ^ (32 * j) * (w.toNat + 2 ^ 32 * (v / 2 ^ (32 * (j + 1))) + 1) := by
        rw [Nat.mul_succ, Nat.add_comm]
        exact Nat.add_lt_add_left hlow _
    _ ≤ 2 ^ (32 * j) * (2 ^ 32 * 2 ^ (32 * k)) := Nat.mul_le_mul_left _ hupper

theorem resetBlock_r (s : State) (i : RegIdx) : (resetBlock s).r[i] = 0 := by fin_cases i <;> rfl

theorem resetBlock_pt (s : State) (i : PtIdx) : (resetBlock s).pt[i] = ⟨0, 0, false⟩ := by fin_cases i <;> rfl

/-- A reset establishes the invariant from any state: the data registers hold 0 and the buffers list nothing (R271). -/
theorem inv_resetBlock (s : State) : (resetBlock s).Inv := by
  have hpow : 0 < 2 ^ (resetBlock s).cfg.opw := Nat.two_pow_pos _
  refine ⟨⟨fun i => ?_, fun i => ?_, hpow, hpow, hpow, hpow, hpow, hpow⟩, ⟨rfl, rfl, rfl, rfl⟩,
    (by decide : (0 : BitVec 2) ≤ 2#2), fun _ => rfl, nofun⟩
  · rw [resetBlock_r]
    exact hpow
  · rw [resetBlock_pt]
    exact ⟨hpow, hpow⟩

theorem inv_accept {s : State} (h : s.Inv) (w : Word) : (accept w s).Inv :=
  inv_of_dataFits (dataFits_accept.2 h.dataFits)
    ⟨(by decide : (0 : BitVec 2) ≤ 2#2), fun _ => rfl, fun _ => ⟨rfl, rfl, rfl⟩⟩

theorem inv_writeStatus {s : State} (h : s.Inv) (v : Word) : (writeStatus v s).Inv := by
  obtain ⟨hw, hb, hres, herr, hbusy⟩ := h
  unfold writeStatus
  split_ifs
  · exact ⟨hw, hb, hres, herr, fun hs => ⟨rfl, (hbusy hs).2⟩⟩
  · exact ⟨hw, hb, hres, herr, hbusy⟩

theorem inv_writeCtrl {s : State} (h : s.Inv) (v : Word) : (writeCtrl v s).Inv := by
  unfold writeCtrl
  dsimp only
  split_ifs
  · exact inv_resetBlock _
  · exact h

/-- A write that an idle block takes keeps the invariant, at every location of the window (R73). -/
theorem inv_writeLoc {s : State} (h : s.Inv) (v : Word) {loc : Loc} (hloc : loc.InWindow s.cfg.nw) :
    (writeLoc v s loc).Inv := by
  have hd := h.dataFits
  have hst : s.StatusFits := h.2.2
  cases loc with
  | cmd => exact inv_accept h v
  | status => exact inv_writeStatus h v
  | ctrl => exact inv_writeCtrl h v
  | id | config | fault | digest _ | sh _ _ | slen _ | smode | rh _ | rlen _ => exact h
  | buffer off =>
    obtain ⟨hlo, hhi⟩ := hloc
    have hend : off + (leBytes 4 v.toNat).length ≤ bufEnd := by
      rw [length_leBytes]
      exact hhi.trans (by decide)
    exact inv_of_dataFits (dataFits_storeBytes hd hlo hend) hst
  | reg k j => exact inv_of_dataFits (dataFits_writeReg hd (setWordOf_lt (hd.readReg_lt k) hloc v) k) hst
  | curve c j =>
    have hfit := dataFits_writeCurveReg hd (setWordOf_lt (hd.readCurveReg_lt c) hloc v) c
    exact inv_of_dataFits hfit (by cases c <;> exact hst)
  | ptX i j =>
    obtain ⟨hx, hy⟩ := hd.pt_lt i
    exact inv_of_dataFits (dataFits_writePointReg hd (setWordOf_lt hx hloc v) hy _ i) hst
  | ptY i j =>
    obtain ⟨hx, hy⟩ := hd.pt_lt i
    exact inv_of_dataFits (dataFits_writePointReg hd hx (setWordOf_lt hy hloc v) _ i) hst
  | ptInf i =>
    obtain ⟨hx, hy⟩ := hd.pt_lt i
    exact inv_of_dataFits (dataFits_writePointReg hd hx hy _ i) hst

theorem inv_memWrite {s : State} (h : s.Inv) (idx : WordIdx) (v : Word) : (memWrite idx v s).Inv := by
  rcases memWrite_cases idx v s with
    ⟨-, heq⟩ | ⟨-, heq⟩ | ⟨loc, -, -, -, heq⟩ | ⟨loc, hloc, -, -, heq⟩ <;> rw [heq]
  · exact h
  · exact inv_writeCtrl h v
  · exact h
  · exact inv_writeLoc h v (inWindow_of_locate hloc)

/-- A host read changes no register, no buffer and no `STATUS` field. -/
theorem inv_hostRead {s : State} (h : s.Inv) (idx : WordIdx) : (hostRead idx s).Inv := by
  unfold hostRead
  rcases memRead_cases idx s with ⟨-, heq⟩ | ⟨loc, -, -, -, heq⟩ | ⟨loc, -, -, heq⟩ <;> rw [heq] <;> exact h

/-! ## Every step keeps the invariant -/

theorem endsInInv_takeTurn {s : State} (h : s.Inv) (turn : Turn) : EndsInInv (takeTurn turn s) := by
  cases turn with
  | read idx => exact endsInInv_next (inv_hostRead h idx)
  | write idx v => exact endsInInv_next (inv_memWrite h idx v)
  | hardReset => exact endsInInv_next (inv_resetBlock s)
  | engine => exact endsInInv_engineTurn h

/-- Settles O20: a host access keeps the registers, the buffers and `STATUS` in the invariant, a reset establishes it, and a
completing command writes results within their bounds and then sets `STATUS`. -/
theorem stepKeepsInvariant : Obligations.StepKeepsInvariant := by
  intro s t h hstep
  rcases step_cases s with ⟨-, heq⟩ | ⟨turn, rest, -, heq⟩ <;> rw [heq] at hstep
  · exact endsInInv_engineTurn h t hstep
  · exact endsInInv_takeTurn (s := { s with turns := rest }) h turn t hstep

end Sys2Proof.Machine

/-! `PRIMETAB`: what the table of primes holds. -/

namespace Sys2Proof.Machine

/-! ## The table of primes (R7) -/

/-- The table holds exactly the primes up to its largest number. -/
theorem mem_primeTable (c : Config) (q : Nat) : q ∈ primeTable c ↔ Nat.Prime q ∧ q ≤ max 3 c.primeMax := by
  rw [primeTable, List.mem_filter, List.mem_range, trialPrime_iff, Nat.lt_succ_iff, and_comm]

/-- The table is strictly ascending: it is a part of the numbers in their order. -/
theorem primeTable_ascending (c : Config) : (primeTable c).Pairwise (· < ·) :=
  List.pairwise_lt_range.filter _

/-- The reference table ends with 409, the 80th prime. -/
theorem length_primeTable_reference : (primeTable Config.reference).length = 80 := by decide +kernel

/-- Settles O29: the filter of an ascending range by a test that `trialPrime_iff` shows to be primality. -/
theorem primeTableIsInitialPrimes : Obligations.PrimeTableIsInitialPrimes :=
  ⟨mem_primeTable, primeTable_ascending, length_primeTable_reference⟩

end Sys2Proof.Machine

/-! The life of a command and the host's accesses: what a step does with each kind of turn, and what a read or a write does at
each kind of register. -/

namespace Sys2Proof.Machine

/-! ## Which turn a step takes -/

section

variable {s : State} {i : Instr} {idx : WordIdx} {v : Word} {rest : List Turn}

theorem step_of_no_turn (h : s.turns = []) : step s = engineTurn s := by
  simp [step, machineStep, h]

theorem step_of_turn {turn : Turn} (h : s.turns = turn :: rest) : step s = takeTurn turn { s with turns := rest } := by
  simp [step, machineStep, h]

theorem step_of_read (h : s.turns = .read idx :: rest) : step s = .next (hostRead idx { s with turns := rest }) :=
  step_of_turn h

theorem step_of_write (h : s.turns = .write idx v :: rest) : step s = .next (memWrite idx v { s with turns := rest }) :=
  step_of_turn h

/-- The engine's turn on a pending command that decodes is the command's meaning (R44). -/
theorem engineTurn_of_decode (hb : s.busy = true) (hd : decode s.cmdreg = .ok i) : engineTurn s = exec i s := by
  simp [engineTurn, engineStep, fetchCommand, hb, hd]

/-- The engine's turn on a pending illegal word is the error completion (R85). -/
theorem engineTurn_of_illegal {e : Illegal} (hb : s.busy = true) (hd : decode s.cmdreg = .error e) :
    engineTurn s = raiseError .illegal s := by
  simp [engineTurn, engineStep, fetchCommand, hb, hd]

/-- A table word that names a command decodes to it. -/
theorem decode_commandWord {nbits w : Nat} (h : decodeTableWord nbits w = some i) :
    decode (commandWord nbits w) = .ok i := by
  unfold decodeTableWord at h
  cases hd : decode (commandWord nbits w) with
  | error e => simp [hd, Except.toOption] at h
  | ok j => simpa [hd, Except.toOption] using h

/-! ## Where the control registers and `DIG` lie (R61) -/

theorem locate_id (c : Config) : locate c (byteOffset 0) = some .id := rfl

theorem locate_config (c : Config) : locate c (byteOffset 1) = some .config := rfl

theorem locate_cmd (c : Config) : locate c (byteOffset 2) = some .cmd := rfl

theorem locate_status (c : Config) : locate c (byteOffset 3) = some .status := rfl

theorem locate_ctrl (c : Config) : locate c (byteOffset 4) = some .ctrl := rfl

theorem locate_fault (c : Config) : locate c (byteOffset 5) = some .fault := rfl

theorem locate_dig (c : Config) {j : Nat} (hj : j < 16) :
    locate c (byteOffset (BitVec.ofNat 12 (0x80 + j))) = some (.digest (0x200 + 4 * j)) := by
  have hoff : byteOffset (BitVec.ofNat 12 (0x80 + j)) = 0x200 + 4 * j := by
    rw [byteOffset, BitVec.toNat_ofNat]
    omega
  have h1 : ¬ 0x200 + 4 * j < 0x100 := by omega
  have h2 : ¬ 0x200 + 4 * j < 0x200 := by omega
  have h3 : 0x200 + 4 * j < 0x240 := by omega
  rw [hoff, locate, if_neg h1, if_neg h2, if_pos h3]

theorem locateHash_not_control {off : Nat} {loc : Loc} (h : locateHash off = some loc) : loc.isControl = false := by
  unfold locateHash at h
  split_ifs at h <;> cases h <;> rfl

theorem locateWide_not_control {nw off : Nat} {loc : Loc} (h : locateWide nw off = some loc) : loc.isControl = false := by
  unfold locateWide at h
  dsimp only at h
  split at h
  · split_ifs at h
    cases h
    rfl
  split at h
  · split_ifs at h
    obtain ⟨c, -, rfl⟩ := Option.map_eq_some_iff.1 h
    rfl
  split at h
  · split_ifs at h
    cases h
    rfl
  · split_ifs at h
    cases h
    rfl
  · split_ifs at h
    cases h
    rfl
  · cases h

theorem offset_of_locateControl_ctrl {off : Nat} (h : locateControl off = some .ctrl) : off = 0x10 := by
  unfold locateControl at h
  split_ifs at h <;> cases h
  assumption

/-- Only the word index 4 is `CTRL` (R61). -/
theorem idx_of_locate_ctrl {c : Config} (h : locate c (byteOffset idx) = some .ctrl) : idx = 4 := by
  unfold locate at h
  split_ifs at h with hlow
  · have hoff : 4 * idx.toNat = 0x10 := offset_of_locateControl_ctrl h
    exact BitVec.eq_of_toNat_eq (show idx.toNat = 4 by omega)
  · cases h
  · cases h
  · cases locateHash_not_control h
  · cases locateWide_not_control h

/-! ## Host accesses to a register (R46, R67, R73) -/

variable {loc : Loc}

theorem hostRead_eq {w : Word} {t : State} (h : memRead idx s = (w, t)) : hostRead idx s = { t with rdata := w } := by
  rw [hostRead, h]

theorem memRead_of_value (hloc : locate s.cfg (byteOffset idx) = some loc) (h : s.busy = false ∨ loc.isControl = true) :
    memRead idx s = (readLoc s loc, s) := by
  rcases h with h | h <;> simp [memRead, hloc, h]

theorem memRead_of_busy_data (hloc : locate s.cfg (byteOffset idx) = some loc) (hb : s.busy = true)
    (hdata : loc.isControl = false) :
    memRead idx s = (Config.busyRead s.busyReads, { s with busyReads := s.busyReads + 1 }) := by
  simp [memRead, hloc, hb, hdata]

theorem memWrite_ctrl (v : Word) (s : State) : memWrite 4 v s = writeCtrl v s := by
  rw [memWrite, locate_ctrl]

theorem memWrite_of_busy (hloc : locate s.cfg (byteOffset idx) = some loc) (hne : loc ≠ .ctrl) (hb : s.busy = true)
    (v : Word) : memWrite idx v s = noteBusyWrite s := by
  rcases memWrite_cases idx v s with ⟨hnone, -⟩ | ⟨hctrl, -⟩ | ⟨_, -, -, -, heq⟩ | ⟨_, -, -, hidle, -⟩
  · simp [hloc] at hnone
  · exact absurd (Option.some.inj (hloc.symm.trans hctrl)) hne
  · exact heq
  · simp [hb] at hidle

theorem memWrite_of_idle (hloc : locate s.cfg (byteOffset idx) = some loc) (hb : s.busy = false) (v : Word) :
    memWrite idx v s = writeLoc v s loc := by
  rcases memWrite_cases idx v s with ⟨hnone, -⟩ | ⟨hctrl, heq⟩ | ⟨_, -, -, hbusy, -⟩ | ⟨_, hloc', -, -, heq⟩
  · simp [hloc] at hnone
  · cases hloc.symm.trans hctrl
    exact heq
  · simp [hb] at hbusy
  · cases hloc.symm.trans hloc'
    exact heq

/-! ## Writes to the control registers (R26, R27) -/

theorem writeCtrl_of_no_reset (hv : v.getLsbD 0 = false) : writeCtrl v s = { s with ie := v.getLsbD 1 } := by
  rw [writeCtrl, hv]
  rfl

/-- The soft reset wins over bit 1 of the same write: a reset does not look at `IE` (R27, R271). -/
theorem writeCtrl_of_reset (hv : v.getLsbD 0 = true) : writeCtrl v s = resetBlock s := by
  rw [writeCtrl, if_pos hv]
  rfl

theorem writeStatus_eq (v : Word) (s : State) : writeStatus v s = { s with done := s.done && !v.getLsbD 1 } := by
  unfold writeStatus
  split_ifs with hv
  · simp only [hv, Bool.not_true, Bool.and_false]
  · simp only [eq_false_of_ne_true hv, Bool.not_false, Bool.and_true]

end

/-- Settles O5: the engine acts in each of the three states, and the word in `CMDREG` is the one that decodes. -/
theorem stepRunsDecodedCommand : Obligations.StepRunsDecodedCommand := by
  refine ⟨fun s i hb ht hd => ?_, fun s i rest hb ht hd => ?_, fun s nbits w i hd => ?_⟩
  · rw [step_of_no_turn ht]
    exact engineTurn_of_decode hb hd
  · rw [step_of_turn ht]
    exact engineTurn_of_decode (s := { s with turns := rest }) hb hd
  · exact engineTurn_of_decode (s := accept (commandWord nbits w) s) rfl (decode_commandWord hd)

/-- Settles O6: the write reaches `CMD` and is an acceptance when idle, a dropped write when busy; on the accepted illegal
word the engine's turn is the error completion. -/
theorem acceptanceRule : Obligations.AcceptanceRule := by
  intro s w rest ht
  have hloc : locate ({ s with turns := rest } : State).cfg (byteOffset 2) = some .cmd := locate_cmd s.cfg
  refine ⟨fun hb => ⟨accept w { s with turns := rest }, ?_, rfl, rfl, rfl, rfl, rfl, rfl, fun e he => ?_⟩, fun hb => ?_⟩
  · rw [step_of_write ht, memWrite_of_idle hloc hb]
    rfl
  · exact ⟨_, engineTurn_of_illegal (s := { accept w s with turns := [] }) rfl he, rfl⟩
  · rw [step_of_write ht, memWrite_of_busy hloc (by decide) hb]
    rfl

/-- Settles O11: of the outcomes of a host access only a write to `CTRL` that resets, and a write that an idle block takes,
reach further than `IE` and `FAULT`; the first is excluded, and the block is busy. -/
theorem pendingCommandFrozen : Obligations.PendingCommandFrozen := by
  intro s rest hb
  refine ⟨fun idx ht => ⟨_, step_of_read ht, ?_⟩, fun idx v ht hv => ⟨_, step_of_write ht, ?_⟩⟩
  · rcases memRead_cases idx { s with turns := rest } with ⟨-, heq⟩ | ⟨_, -, -, -, heq⟩ | ⟨_, -, -, heq⟩ <;>
      simp only [hostRead_eq heq, noteBadAddress]
  · rcases memWrite_cases idx v { s with turns := rest } with
      ⟨-, heq⟩ | ⟨hctrl, heq⟩ | ⟨_, -, -, -, heq⟩ | ⟨_, -, -, hidle, -⟩
    · rw [heq]
      rfl
    · have hno : v.getLsbD 0 = false := hv.resolve_left (· (idx_of_locate_ctrl hctrl))
      rw [heq, writeCtrl_of_no_reset hno]
    · rw [heq]
      rfl
    · exact absurd (hb.symm.trans hidle) (by decide)

/-- Settles O13: each clause is the one outcome of `MemRead` or `MemWrite` at its location. -/
theorem busyAccessRule : Obligations.BusyAccessRule := by
  refine ⟨fun s idx loc hb hloc => ⟨fun hc => ?_, fun hdata => ?_, fun hne v => ?_, fun hctrl v hv => ?_⟩,
    fun s v hv => ?_, fun s v hb => ⟨?_, ?_, ?_, ?_, fun j hj => ?_⟩, fun s idx hb hloc => ?_⟩
  · exact memRead_of_value hloc (.inr hc)
  · rw [memRead_of_busy_data hloc hb hdata]
    exact ⟨rfl, rfl⟩
  · exact memWrite_of_busy hloc hne hb v
  · subst hctrl
    rw [idx_of_locate_ctrl hloc, memWrite_ctrl, writeCtrl_of_no_reset hv]
  · rw [memWrite_ctrl, writeCtrl_of_no_reset hv]
  · exact memWrite_of_idle (locate_fault s.cfg) hb v
  · exact (memWrite_of_idle (locate_status s.cfg) hb v).trans (writeStatus_eq v s)
  · exact memWrite_of_idle (locate_id s.cfg) hb v
  · exact memWrite_of_idle (locate_config s.cfg) hb v
  · exact memWrite_of_idle (locate_dig s.cfg hj) hb v
  · obtain ⟨loc, hsome⟩ := Option.ne_none_iff_exists'.1 hloc
    rw [memRead_of_value hsome (.inl hb)]

theorem statusWord_resetBlock (s : State) : statusWord (resetBlock s) = 0 := by
  change statusWord State.reset = 0
  decide

theorem ctrlWord_resetBlock (s : State) : ctrlWord (resetBlock s) = 0 := by
  change ctrlWord State.reset = 0
  decide

theorem faultWord_resetBlock (s : State) : faultWord (resetBlock s) = 0 := by
  change faultWord State.reset = 0
  decide

/-- Settles O17: both steps are the block's reset in the state without the turn taken. -/
theorem resetRule : Obligations.ResetRule := by
  intro s v rest hv
  refine ⟨resetBlock { s with turns := rest }, ?_, rfl, rfl, rfl, rfl, statusWord_resetBlock _, ctrlWord_resetBlock _,
    faultWord_resetBlock _, rfl, rfl, rfl, rfl, fun i => ?_, rfl, rfl, rfl⟩
  · rw [step_of_write rfl, memWrite_ctrl, writeCtrl_of_reset hv]
  · rw [resetBlock_pt]

/-- Settles O19: a reset of the reset state is the reset state. -/
theorem resetMeetsInvariant : Obligations.ResetMeetsInvariant :=
  inv_resetBlock State.reset

end Sys2Proof.Machine

/-! The control registers as words: which field of `CONFIG`, `STATUS`, `CTRL` and `FAULT` stands at which position. -/

namespace Sys2Proof.Machine

/-! ## Fields of a word that is or'ed together from placed values (R10, R81)

Each value that the control registers show has its own width; where a field does not meet it, the value adds 0 there. -/

theorem getLsbD_placed (v lo b : Nat) :
    (placed v lo).getLsbD b = (decide (b < 32) && !decide (b < lo) && v.testBit (b - lo)) := by
  rw [placed, BitVec.getLsbD_shiftLeft, BitVec.getLsbD_ofNat]
  by_cases hb : b < 32
  · have hsub : b - lo < 32 := by omega
    simp [hb, hsub]
  · simp [hb]

/-- The field in which a value was placed holds it. -/
@[simp] theorem field_placed_same (v : Nat) {lo len : Nat} (h : lo + len ≤ 32) :
    (placed v lo).extractLsb' lo len = BitVec.ofNat len v := by
  refine BitVec.eq_of_getLsbD_eq fun b hb => ?_
  have hb32 : lo + b < 32 := by omega
  rw [BitVec.getLsbD_extractLsb', getLsbD_placed, BitVec.getLsbD_ofNat]
  simp [hb32]

/-- A field that does not meet the `n` bits of a placed value holds 0. -/
theorem field_placed_disjoint {v n lo pos len : Nat} (hv : v < 2 ^ n) (h : lo + n ≤ pos ∨ pos + len ≤ lo) :
    (placed v lo).extractLsb' pos len = 0#len := by
  refine BitVec.eq_of_getLsbD_eq fun b hb => ?_
  rw [BitVec.getLsbD_extractLsb', getLsbD_placed, BitVec.getLsbD_zero]
  rcases h with hhigh | hlow
  · have hbit : v.testBit (pos + b - lo) = false :=
      Nat.testBit_lt_two_pow (hv.trans_le (Nat.pow_le_pow_right (by decide) (by omega)))
    simp [hbit]
  · have hbelow : pos + b < lo := by omega
    simp [hbelow]

theorem errCode_lt (e : ErrCode) : e.code < 2 ^ 4 := by cases e <;> decide

theorem algCode_lt : ∀ alg : Alg, alg.code < 2 ^ 3
  | .sha m => by cases m <;> decide
  | .rmd160 => by decide

theorem nw_lt (c : Config) : c.nw < 2 ^ 8 := by
  have := c.nwPred.isLt
  unfold Config.nw
  omega

section

variable {lo pos len : Nat}

@[simp] theorem field_flagAt_same (b : Bool) (h : lo + 1 ≤ 32) : (flagAt b lo).extractLsb' lo 1 = BitVec.ofBool b := by
  rw [flagAt, field_placed_same _ h]
  cases b <;> rfl

@[simp] theorem field_flagAt_disjoint (b : Bool) (h : lo + 1 ≤ pos ∨ pos + len ≤ lo) :
    (flagAt b lo).extractLsb' pos len = 0#len :=
  field_placed_disjoint (n := 1) b.toNat_lt h

@[simp] theorem field_errCode_disjoint (e : ErrCode) (h : lo + 4 ≤ pos ∨ pos + len ≤ lo) :
    (placed e.code lo).extractLsb' pos len = 0#len :=
  field_placed_disjoint (errCode_lt e) h

@[simp] theorem field_res_disjoint (r : BitVec 2) (h : lo + 2 ≤ pos ∨ pos + len ≤ lo) :
    (placed r.toNat lo).extractLsb' pos len = 0#len :=
  field_placed_disjoint r.isLt h

@[simp] theorem field_algCode_disjoint (alg : Alg) (h : lo + 3 ≤ pos ∨ pos + len ≤ lo) :
    (placed alg.code lo).extractLsb' pos len = 0#len :=
  field_placed_disjoint (algCode_lt alg) h

@[simp] theorem field_nw_disjoint (c : Config) (h : lo + 8 ≤ pos ∨ pos + len ≤ lo) :
    (placed c.nw lo).extractLsb' pos len = 0#len :=
  field_placed_disjoint (nw_lt c) h

end

/-- A bit of a word is the field of length 1 at its position. -/
theorem getLsbD_of_field {w : Word} {pos : Nat} {b : Bool} (h : w.extractLsb' pos 1 = BitVec.ofBool b) :
    w.getLsbD pos = b := by
  have hbit : (w.extractLsb' pos 1).getLsbD 0 = w.getLsbD pos := by rw [BitVec.getLsbD_extractLsb']; simp
  rw [← hbit, h]
  cases b <;> rfl

/-! ## The numberings of R82 and R241 -/

theorem errCode_of_field (e : ErrCode) :
    [ErrCode.ok, .illegal, .param, .seq, .modulus, .noInverse, .notOnCurve][(BitVec.ofNat 4 e.code).toNat]? = some e := by
  cases e <;> rfl

theorem alg_of_field : ∀ alg : Alg,
    [Alg.sha .sha224, .sha .sha256, .sha .sha384, .sha .sha512, .rmd160][(BitVec.ofNat 3 alg.code).toNat]? = some alg
  | .sha m => by cases m <;> rfl
  | .rmd160 => rfl

/-! ## The layouts (R24, R26, R27, R28) -/

theorem configWord_nw (c : Config) : ((configWord c).extractLsb' 0 8).toNat = c.nw := by
  have hfield : (configWord c).extractLsb' 0 8 = BitVec.ofNat 8 c.nw := by
    simp [configWord, BitVec.extractLsb'_or, field_placed_disjoint (n := 4)]
  rw [hfield, BitVec.toNat_ofNat, Nat.mod_eq_of_lt (nw_lt c)]

theorem configWord_nr (c : Config) : (configWord c).extractLsb' 8 4 = 8 := by
  simp [configWord, BitVec.extractLsb'_or, field_placed_disjoint (n := 4)]

theorem configWord_np (c : Config) : (configWord c).extractLsb' 12 4 = 4 := by
  simp [configWord, BitVec.extractLsb'_or, field_placed_disjoint (n := 4)]

theorem configWord_unused (c : Config) : (configWord c).extractLsb' 16 16 = 0 := by
  simp [configWord, BitVec.extractLsb'_or, field_placed_disjoint (n := 4)]

section

variable (s : State)

theorem statusWord_flags : (statusWord s).getLsbD 0 = s.busy ∧ (statusWord s).getLsbD 1 = s.done ∧
    (statusWord s).getLsbD 12 = s.hact :=
  ⟨getLsbD_of_field (by simp [statusWord, BitVec.extractLsb'_or]),
    getLsbD_of_field (by simp [statusWord, BitVec.extractLsb'_or]),
    getLsbD_of_field (by simp [statusWord, BitVec.extractLsb'_or])⟩

theorem statusWord_err : (statusWord s).extractLsb' 4 4 = BitVec.ofNat 4 s.err.code := by
  simp [statusWord, BitVec.extractLsb'_or]

theorem statusWord_res : (statusWord s).extractLsb' 8 2 = s.res := by
  simp [statusWord, BitVec.extractLsb'_or]

theorem statusWord_halg : (statusWord s).extractLsb' 16 3 = BitVec.ofNat 3 s.halg.code := by
  simp [statusWord, BitVec.extractLsb'_or]

theorem statusWord_unused : (statusWord s).extractLsb' 2 2 = 0 ∧ (statusWord s).extractLsb' 10 2 = 0 ∧
    (statusWord s).extractLsb' 13 3 = 0 ∧ (statusWord s).extractLsb' 19 13 = 0 := by
  simp [statusWord, BitVec.extractLsb'_or]

theorem ctrlWord_layout : (ctrlWord s).getLsbD 0 = false ∧ (ctrlWord s).getLsbD 1 = s.ie ∧
    (ctrlWord s).extractLsb' 2 30 = 0 :=
  ⟨getLsbD_of_field (by simp [ctrlWord]), getLsbD_of_field (by simp [ctrlWord]), by simp [ctrlWord]⟩

theorem faultWord_layout : (faultWord s).getLsbD 0 = s.faultWbusy ∧ (faultWord s).getLsbD 1 = s.faultBadaddr ∧
    (faultWord s).extractLsb' 2 30 = 0 :=
  ⟨getLsbD_of_field (by simp [faultWord, BitVec.extractLsb'_or]),
    getLsbD_of_field (by simp [faultWord, BitVec.extractLsb'_or]), by simp [faultWord, BitVec.extractLsb'_or]⟩

/-! ## What the host reads -/

theorem memRead_control {s : State} {idx : WordIdx} {loc : Loc} (hloc : locate s.cfg (byteOffset idx) = some loc)
    (hc : loc.isControl = true) : (memRead idx s).1 = readLoc s loc := by
  rw [memRead_of_value hloc (.inr hc)]

theorem memRead_id : (memRead 0 s).1 = idWord := memRead_control (locate_id s.cfg) rfl

theorem memRead_config : (memRead 1 s).1 = configWord s.cfg := memRead_control (locate_config s.cfg) rfl

theorem memRead_cmd : (memRead 2 s).1 = s.cmdreg := memRead_control (locate_cmd s.cfg) rfl

theorem memRead_status : (memRead 3 s).1 = statusWord s := memRead_control (locate_status s.cfg) rfl

theorem memRead_ctrl : (memRead 4 s).1 = ctrlWord s := memRead_control (locate_ctrl s.cfg) rfl

theorem memRead_fault : (memRead 5 s).1 = faultWord s := memRead_control (locate_fault s.cfg) rfl

end

/-- Settles O18: each control register reads as its word, whose fields the lemmas above give; the reset state is evaluated. -/
theorem resetValues : Obligations.ResetValues := by
  refine ⟨fun s => ?_, ?_⟩
  · obtain ⟨hbusy, hdone, hhact⟩ := statusWord_flags s
    obtain ⟨h2, h10, h13, h19⟩ := statusWord_unused s
    rw [memRead_id, memRead_config, memRead_cmd, memRead_status, memRead_ctrl, memRead_fault, statusWord_err,
      statusWord_res, statusWord_halg]
    exact ⟨rfl, ⟨configWord_nw _, configWord_nr _, configWord_np _, configWord_unused _⟩, rfl,
      ⟨hbusy, hdone, h2, errCode_of_field _, rfl, h10, hhact, h13, alg_of_field _, h19⟩, ctrlWord_layout s,
      faultWord_layout s⟩
  · rw [memRead_id, memRead_config, memRead_cmd, memRead_status, memRead_ctrl, memRead_fault]
    exact ⟨rfl, by decide, rfl, by decide, by decide, by decide, rfl, rfl, rfl, by decide, rfl⟩

end Sys2Proof.Machine

/-! What every command leaves unchanged: the curve registers, the buffers but `DIG`, the control registers but `STATUS`, and
what lies outside the block. -/

namespace Sys2Proof.Machine

/-! ## The part of the state that no command writes (R30, R31, R36, R44) -/

/-- What the host alone writes is the same in both states. -/
def KeepsHostRegisters (s t : State) : Prop :=
  SameCurve s t ∧ SameBuffersButDigest s t ∧ SameControl s t ∧ SameOutside s t

theorem KeepsHostRegisters.refl (s : State) : KeepsHostRegisters s s :=
  ⟨⟨rfl, rfl, rfl, rfl, rfl, rfl⟩, fun _ _ => rfl, ⟨rfl, rfl, rfl, rfl, rfl⟩, rfl, rfl, rfl⟩

section

variable {s t : State}

/-! A command's writes but the one of the digest touch nothing of it. -/

theorem keeps_finish {e : ErrCode} {k : BitVec 2} : KeepsHostRegisters s (finish e k t) ↔ KeepsHostRegisters s t := Iff.rfl

theorem keeps_writeReg {i : RegIdx} {v : Nat} : KeepsHostRegisters s (writeReg i v t) ↔ KeepsHostRegisters s t := Iff.rfl

theorem keeps_writePoint {i : PtIdx} {p : Point} : KeepsHostRegisters s (writePoint i p t) ↔ KeepsHostRegisters s t :=
  Iff.rfl

theorem keeps_writeSha {h : ShaChain} {n : DWord} : KeepsHostRegisters s (writeSha h n t) ↔ KeepsHostRegisters s t :=
  Iff.rfl

theorem keeps_writeShaMode {m : ShaMode} : KeepsHostRegisters s (writeShaMode m t) ↔ KeepsHostRegisters s t := Iff.rfl

theorem keeps_writeRmd {h : RmdChain} {n : DWord} : KeepsHostRegisters s (writeRmd h n t) ↔ KeepsHostRegisters s t :=
  Iff.rfl

theorem keeps_openHmac {alg : Alg} {k0 : List Byte} : KeepsHostRegisters s (openHmac alg k0 t) ↔ KeepsHostRegisters s t :=
  Iff.rfl

theorem keeps_closeHmac : KeepsHostRegisters s (closeHmac t) ↔ KeepsHostRegisters s t := Iff.rfl

theorem keeps_writeRnd {port : RndPort} : KeepsHostRegisters s (writeRnd port t) ↔ KeepsHostRegisters s t := Iff.rfl

/-- A digest of at most 64 bytes, with the zeros after it, is written inside `DIG` (R32). -/
theorem writeDigest_sameBuffersButDigest {d : List Byte} (hd : d.length ≤ 64) :
    SameBuffersButDigest t (writeDigest d t) := by
  intro a ha
  have hlen : digBase + (d ++ zeroBytes (64 - d.length)).length = bufEnd := by
    simp only [List.length_append, length_zeroBytes, digBase, bufEnd]
    omega
  exact readByte_storeBytes_outside _ t.mem digBase (by omega)

theorem keeps_writeDigest {d : List Byte} (hd : d.length ≤ 64) (h : KeepsHostRegisters s t) :
    KeepsHostRegisters s (writeDigest d t) := by
  obtain ⟨hcurve, hbuf, hrest⟩ := h
  exact ⟨hcurve, fun a ha => (writeDigest_sameBuffersButDigest hd a ha).trans (hbuf a ha), hrest⟩

theorem keeps_writeDigest_sha (m : ShaMode) (c : ShaChain) (h : KeepsHostRegisters s t) :
    KeepsHostRegisters s (writeDigest ((shaHash m).digest c) t) :=
  keeps_writeDigest ((length_shaDigest m c).trans_le (shaDigestLen_le m)) h

theorem keeps_writeDigest_rmd (c : RmdChain) (h : KeepsHostRegisters s t) :
    KeepsHostRegisters s (writeDigest (rmdHash.digest c) t) :=
  keeps_writeDigest ((length_rmdDigest c).trans_le (by decide)) h

theorem keeps_startInner (alg : Alg) (k0 : List Byte) (h : KeepsHostRegisters s t) :
    KeepsHostRegisters s (startInner alg k0 t) := by
  cases alg with
  | sha m => exact keeps_writeSha.2 (keeps_writeShaMode.2 h)
  | rmd160 => exact keeps_writeRmd.2 h

theorem keeps_finishInner (alg : Alg) (nbytes : Nat) (h : KeepsHostRegisters s t) :
    KeepsHostRegisters s (finishInner alg nbytes t) := by
  cases alg with
  | sha m => exact keeps_closeHmac.2 (keeps_writeDigest_sha m _ (keeps_writeSha.2 (keeps_writeShaMode.2 h)))
  | rmd160 => exact keeps_closeHmac.2 (keeps_writeDigest_rmd _ (keeps_writeRmd.2 h))

end

/-! ## Every command completes with it unchanged -/

/-- If there is a next state, the command has completed in it and what the host alone writes is as in `s`. -/
def EndsKeeping (s : State) (o : Result) : Prop :=
  ∀ t, o = .next t → KeepsHostRegisters s t ∧ t.busy = false ∧ t.done = true

section

variable {s t : State}

theorem endsKeeping_complete {k : BitVec 2} (h : KeepsHostRegisters s t) : EndsKeeping s (complete k t) := by
  rintro u ⟨⟩
  exact ⟨keeps_finish.2 h, rfl, rfl⟩

theorem endsKeeping_raiseError {e : ErrCode} (h : KeepsHostRegisters s t) : EndsKeeping s (raiseError e t) := by
  rintro u ⟨⟩
  exact ⟨keeps_finish.2 h, rfl, rfl⟩

theorem endsKeeping_withModulus {go : Result} (h : EndsKeeping s go) : EndsKeeping s (withModulus s go) := by
  rcases withModulus_cases s go with ⟨-, heq⟩ | ⟨-, heq⟩ <;> rw [heq]
  · exact endsKeeping_raiseError (.refl s)
  · exact h

theorem endsKeeping_completePoint (pd : PtIdx) (r : Except EcError Point) : EndsKeeping s (completePoint pd r s) := by
  cases r with
  | error e => exact endsKeeping_raiseError (.refl s)
  | ok p => exact endsKeeping_complete (keeps_writePoint.2 (.refl s))

end

section

variable (s : State)

theorem endsKeeping_execEgcd (rd rc re ra rb : RegIdx) : EndsKeeping s (execEgcd rd rc re ra rb s) := by
  unfold execEgcd
  split_ifs
  · exact endsKeeping_complete (keeps_writeReg.2 (keeps_writeReg.2 (keeps_writeReg.2 (.refl s))))
  · exact endsKeeping_raiseError (.refl s)

theorem endsKeeping_execModinv (rd ra rb : RegIdx) : EndsKeeping s (execModinv rd ra rb s) := by
  unfold execModinv
  split_ifs
  · exact endsKeeping_raiseError (.refl s)
  · split
    · exact endsKeeping_raiseError (.refl s)
    · exact endsKeeping_complete (keeps_writeReg.2 (.refl s))

theorem endsKeeping_execSqrtmod (rd rc ra rb : RegIdx) (rounds : BitVec 8) :
    EndsKeeping s (execSqrtmod rd rc ra rb rounds s) := by
  have hrnd : ∀ port, KeepsHostRegisters s (writeRnd port s) := fun port => keeps_writeRnd.2 (.refl s)
  unfold execSqrtmod
  split_ifs
  · split
    · exact endsKeeping_raiseError (hrnd _)
    · exact endsKeeping_complete (hrnd _)
    · exact endsKeeping_complete (keeps_writeReg.2 (hrnd _))
    · exact endsKeeping_complete (keeps_writeReg.2 (keeps_writeReg.2 (hrnd _)))
    · rintro t ⟨⟩
  · exact endsKeeping_raiseError (.refl s)

theorem endsKeeping_execShaFinal (nbytes : BitVec 8) : EndsKeeping s (execShaFinal nbytes s) := by
  unfold execShaFinal
  dsimp only
  split_ifs
  · exact endsKeeping_raiseError (.refl s)
  · exact endsKeeping_complete (keeps_writeDigest_sha _ _ (keeps_writeSha.2 (.refl s)))

theorem endsKeeping_execRmdFinal (nbytes : BitVec 8) : EndsKeeping s (execRmdFinal nbytes s) := by
  unfold execRmdFinal
  dsimp only
  split_ifs
  · exact endsKeeping_raiseError (.refl s)
  · exact endsKeeping_complete (keeps_writeDigest_rmd _ (keeps_writeRmd.2 (.refl s)))

theorem endsKeeping_execHmacInit (alg : Alg) (klen : BitVec 8) : EndsKeeping s (execHmacInit alg klen s) := by
  unfold execHmacInit
  dsimp only
  split_ifs
  · exact endsKeeping_raiseError (.refl s)
  · exact endsKeeping_complete (keeps_startInner _ _ (keeps_openHmac.2 (.refl s)))

theorem endsKeeping_execHmacFinal (nbytes : BitVec 8) : EndsKeeping s (execHmacFinal nbytes s) := by
  unfold execHmacFinal
  split_ifs
  · exact endsKeeping_raiseError (.refl s)
  · exact endsKeeping_raiseError (.refl s)
  · exact endsKeeping_complete (keeps_finishInner _ _ (.refl s))

theorem endsKeeping_exec (i : Instr) : EndsKeeping s (exec i s) := by
  have hs := KeepsHostRegisters.refl s
  cases i with
  | gcd rd ra rb => exact endsKeeping_complete (keeps_writeReg.2 hs)
  | egcd rd rc re ra rb => exact endsKeeping_execEgcd s rd rc re ra rb
  | modinv rd ra rb => exact endsKeeping_execModinv s rd ra rb
  | sqrtmod rd rc ra rb rounds => exact endsKeeping_execSqrtmod s rd rc ra rb rounds
  | shaInit alg => exact endsKeeping_complete (keeps_closeHmac.2 (keeps_writeSha.2 (keeps_writeShaMode.2 hs)))
  | shaBlock => exact endsKeeping_complete (keeps_writeSha.2 hs)
  | shaFinal nbytes => exact endsKeeping_execShaFinal s nbytes
  | rmdInit => exact endsKeeping_complete (keeps_closeHmac.2 (keeps_writeRmd.2 hs))
  | rmdBlock => exact endsKeeping_complete (keeps_writeRmd.2 hs)
  | rmdFinal nbytes => exact endsKeeping_execRmdFinal s nbytes
  | hmacInit alg klen => exact endsKeeping_execHmacInit s alg klen
  | hmacFinal nbytes => exact endsKeeping_execHmacFinal s nbytes
  | ecOncurve pa => exact endsKeeping_withModulus (endsKeeping_complete hs)
  | ecAdd pd pa pb => exact endsKeeping_withModulus (endsKeeping_completePoint pd _)
  | ecDbl pd pa => exact endsKeeping_withModulus (endsKeeping_completePoint pd _)
  | ecMul pd pa rk => exact endsKeeping_withModulus (endsKeeping_completePoint pd _)
  | ecNeg pd pa => exact endsKeeping_withModulus (endsKeeping_complete (keeps_writePoint.2 hs))
  | ecLdg pd => exact endsKeeping_complete (keeps_writePoint.2 hs)

/-- The engine's step completes the pending word, legal or not, with it unchanged (R44, R85). -/
theorem endsKeeping_engineStep : EndsKeeping s (engineStep s) := by
  rcases engineStep_cases s with ⟨i, -, heq⟩ | ⟨e, -, heq⟩ <;> rw [heq]
  · exact endsKeeping_exec s i
  · exact endsKeeping_raiseError (.refl s)

end

/-- Settles O8: command by command, no write but the one of the digest reaches what the host alone writes, and that one stays
inside `DIG`. -/
theorem commandsWriteNoHostRegister : Obligations.CommandsWriteNoHostRegister := by
  intro i s t h
  obtain ⟨⟨hcurve, hbuf, hcontrol, houtside⟩, hbusy, hdone⟩ := endsKeeping_exec s i t h
  exact ⟨hcurve, hbuf, hcontrol, houtside, hbusy, hdone⟩

/-! ## The interrupt output (R41, R246) -/

theorem irq_of_done {s : State} (h : s.done = true) : irq s = s.ie := by
  rw [irq, h, Bool.and_true]

theorem irq_of_not_done {s : State} (h : s.done = false) : irq s = false := by
  rw [irq, h, Bool.and_false]

theorem irq_of_disabled {s : State} (h : s.ie = false) : irq s = false := by
  rw [irq, h, Bool.false_and]

theorem irq_resetBlock (s : State) : irq (resetBlock s) = false :=
  irq_of_disabled rfl

/-- Settles O10: a completion sets `DONE` and keeps `IE`; the write of 1 to `DONE` and an acceptance clear `DONE`; a write of
0 to `IE` clears it, and so does a reset. -/
theorem interruptLevel : Obligations.InterruptLevel := by
  refine ⟨fun s t h => ?_, fun s v hb hv => ?_, fun s w hb => ?_, fun s v hv => ?_, irq_resetBlock⟩
  · obtain ⟨⟨-, -, ⟨-, -, hie, -⟩, -⟩, -, hdone⟩ := endsKeeping_engineStep s t h
    exact (irq_of_done hdone).trans hie
  · rw [memWrite_of_idle (locate_status s.cfg) hb, writeLoc, writeStatus, if_pos hv]
    exact irq_of_not_done rfl
  · rw [memWrite_of_idle (locate_cmd s.cfg) hb]
    exact irq_of_not_done rfl
  · rw [memWrite_ctrl]
    cases hreset : v.getLsbD 0 with
    | true => rw [writeCtrl_of_reset hreset, irq_resetBlock]
    | false =>
      rw [writeCtrl_of_no_reset hreset]
      exact irq_of_disabled hv

end Sys2Proof.Machine

/-! Words of the window: how a bus word stands in a wide register and how a buffer word is made of bytes (R62). -/

namespace Sys2Proof.Machine

/-! ## Words of a wide integer (R62) -/

theorem wordAt_wordOf (v j : Nat) : WordAt j (wordOf v j) v := by
  intro b hb
  rw [wordOf, BitVec.getLsbD_ofNat, decide_eq_true hb, Bool.true_and, Nat.testBit_div_two_pow, Nat.add_comm]

/-- The word `j` of a wide integer is the only word with its bits. -/
theorem eq_wordOf_of_wordAt {j v : Nat} {w : Word} (h : WordAt j w v) : w = wordOf v j :=
  BitVec.eq_of_getLsbD_eq fun b hb => (h b hb).trans (wordAt_wordOf v j b hb).symm

/-- Replacing a word cuts the number in three: the bits below it, the word, and the bits above it. -/
theorem wordReplaced_setWordOf (v j : Nat) (w : Word) : WordReplaced j w v (setWordOf v j w) := by
  intro b
  have hlow : v % 2 ^ (32 * j) < 2 ^ (32 * j) := Nat.mod_lt _ (Nat.two_pow_pos _)
  rw [setWordOf, Nat.add_comm, Nat.testBit_two_pow_mul_add _ hlow]
  rcases Nat.lt_or_ge b (32 * j) with hb | hb
  · have hout : ¬ (32 * j ≤ b ∧ b < 32 * j + 32) := by omega
    simp [hb, hout, Nat.testBit_mod_two_pow]
  · have hb' : ¬ b < 32 * j := by omega
    rw [if_neg hb', Nat.add_comm, Nat.testBit_two_pow_mul_add _ w.isLt, BitVec.testBit_toNat]
    rcases Nat.lt_or_ge b (32 * j + 32) with hhi | hhi
    · have hin : b - 32 * j < 32 := by omega
      simp [hin, hb, hhi]
    · have hin : ¬ b - 32 * j < 32 := by omega
      have hout : ¬ (32 * j ≤ b ∧ b < 32 * j + 32) := by omega
      have hsum : 32 * (j + 1) + (b - 32 * j - 32) = b := by omega
      rw [if_neg hin, if_neg hout, Nat.testBit_div_two_pow, Nat.add_comm, hsum]

@[simp] theorem wordOf_setWordOf_same (v j : Nat) (w : Word) : wordOf (setWordOf v j w) j = w := by
  refine (eq_wordOf_of_wordAt fun b hb => ?_).symm
  have hin : 32 * j ≤ 32 * j + b ∧ 32 * j + b < 32 * j + 32 := by omega
  rw [wordReplaced_setWordOf v j w, if_pos hin, Nat.add_sub_cancel_left]

theorem wordOf_setWordOf_ne {i j : Nat} (h : i ≠ j) (v : Nat) (w : Word) : wordOf (setWordOf v j w) i = wordOf v i := by
  refine eq_wordOf_of_wordAt fun b hb => ?_
  have hout : ¬ (32 * j ≤ 32 * i + b ∧ 32 * i + b < 32 * j + 32) := by omega
  rw [wordAt_wordOf _ _ b hb, wordReplaced_setWordOf v j w, if_neg hout]

/-! ## The halves of a 64-bit register are its words 0 and 1 (R62) -/

theorem halfOf_eq_wordOf (v : DWord) (hi : Bool) : halfOf v hi = wordOf v.toNat hi.toNat := by
  refine eq_wordOf_of_wordAt fun b hb => ?_
  cases hi <;> simp [halfOf, hb, BitVec.testBit_toNat]

/-- The two halves of an appended double word stand at their weights. -/
theorem toNat_append_words (a b : Word) : (a ++ b : BitVec (32 + 32)).toNat = 2 ^ 32 * a.toNat + b.toNat := by
  rw [BitVec.toNat_append, ← Nat.shiftLeft_add_eq_or_of_lt b.isLt, Nat.shiftLeft_eq, Nat.mul_comm]

theorem toNat_setHalfOf (v : DWord) (hi : Bool) (w : Word) :
    (setHalfOf v hi w).toNat = setWordOf v.toNat hi.toNat w := by
  have hv := v.isLt
  cases hi with
  | false =>
    refine (toNat_append_words (v.extractLsb' 32 32) w).trans ?_
    simp only [BitVec.extractLsb'_toNat, Nat.shiftRight_eq_div_pow, setWordOf, Bool.toNat_false]
    omega
  | true =>
    refine (toNat_append_words w (v.extractLsb' 0 32)).trans ?_
    simp only [BitVec.extractLsb'_toNat, Nat.shiftRight_eq_div_pow, setWordOf, Bool.toNat_true]
    omega

@[simp] theorem halfOf_setHalfOf_same (v : DWord) (hi : Bool) (w : Word) : halfOf (setHalfOf v hi w) hi = w := by
  rw [halfOf_eq_wordOf, toNat_setHalfOf, wordOf_setWordOf_same]

theorem boolToNat_ne : ∀ a b : Bool, a ≠ b → a.toNat ≠ b.toNat := by decide

theorem halfOf_setHalfOf_ne {hi hi' : Bool} (h : hi' ≠ hi) (v : DWord) (w : Word) :
    halfOf (setHalfOf v hi w) hi' = halfOf v hi' := by
  rw [halfOf_eq_wordOf, toNat_setHalfOf, wordOf_setWordOf_ne (boolToNat_ne hi' hi h), halfOf_eq_wordOf]

/-! ## The byte lanes of a buffer word (R62) -/

/-- Byte `k` of the integer of a little-endian string is the string's byte `k` (R12). -/
theorem leNat_byte : ∀ (bs : List Byte) (k : Nat), leNat bs / 256 ^ k % 256 = (bs.getD k 0).toNat
  | [], _ => by simp [leNat]
  | b :: bs, 0 => by
    have := b.isLt
    simp only [leNat, pow_zero, Nat.div_one, List.getD_cons_zero]
    omega
  | b :: bs, k + 1 => by
    have hhead : (b.toNat + 256 * leNat bs) / 256 = leNat bs := by
      have := b.isLt
      omega
    rw [leNat, pow_succ', ← Nat.div_div_eq_div_mul, hhead, List.getD_cons_succ, leNat_byte bs k]

theorem getD_loadBytes (m : Memory) : ∀ {n k : Nat} (base : Nat), k < n →
    (loadBytes m base n).getD k 0 = readByte m (base + k)
  | n + 1, 0, base, _ => rfl
  | n + 1, k + 1, base, h => by
    rw [loadBytes, List.getD_cons_succ, getD_loadBytes m (base + 1) (by omega)]
    congr 1
    omega

theorem getD_leBytes : ∀ {n k : Nat} (v : Nat), k < n → (leBytes n v).getD k 0 = BitVec.ofNat 8 (v / 256 ^ k)
  | n + 1, 0, v, _ => by simp [leBytes]
  | n + 1, k + 1, v, h => by
    rw [leBytes, List.getD_cons_succ, getD_leBytes (v / 256) (by omega), Nat.div_div_eq_div_mul, pow_succ']

/-- The lane `k` of a word, as a number. -/
theorem lane_eq_ofNat (w : Word) (k : Nat) : w.extractLsb' (8 * k) 8 = BitVec.ofNat 8 (w.toNat / 256 ^ k) := by
  rw [BitVec.extractLsb', Nat.shiftRight_eq_div_pow, pow_mul]
  rfl

/-- A word is its four lanes. -/
theorem eq_of_lanes {v w : Word} (h : ∀ k < 4, v.extractLsb' (8 * k) 8 = w.extractLsb' (8 * k) 8) : v = w := by
  refine BitVec.eq_of_getLsbD_eq fun b hb => ?_
  have hlane := congrArg (·.getLsbD (b % 8)) (h (b / 8) (by omega))
  simpa [BitVec.getLsbD_extractLsb', Nat.mod_lt, Nat.div_add_mod] using hlane

/-- Lane `k` of the word read from four bytes is byte `k`. -/
theorem lane_loadBytes (m : Memory) (off : Nat) {k : Nat} (hk : k < 4) :
    (BitVec.ofNat 32 (leNat (loadBytes m off 4))).extractLsb' (8 * k) 8 = readByte m (off + k) := by
  have hbyte : leNat (loadBytes m off 4) / 256 ^ k % 256 = (readByte m (off + k)).toNat := by
    rw [leNat_byte, getD_loadBytes m off hk]
  rw [lane_eq_ofNat, BitVec.toNat_ofNat]
  refine BitVec.eq_of_toNat_eq ?_
  rw [BitVec.toNat_ofNat, ← hbyte]
  have hpow : 2 ^ 32 = 256 ^ k * (256 * 256 ^ (3 - k)) := by
    rw [← mul_assoc, ← pow_succ, ← pow_add, show k + 1 + (3 - k) = 4 by omega]
    norm_num
  rw [hpow, Nat.mod_mul_right_div_self]
  exact Nat.mod_mul_right_mod _ _ _

/-- The four bytes stored for a word are its lanes. -/
theorem readByte_storeWord {m : Memory} (hm : Memory.wf m = true) (off : Nat) (v : Word) {k : Nat} (hk : k < 4) :
    readByte (storeBytes m off (leBytes 4 v.toNat)) (off + k) = v.extractLsb' (8 * k) 8 := by
  have hlen : k < (leBytes 4 v.toNat).length := by rwa [length_leBytes]
  rw [readByte_storeBytes_inside _ m off k hm hlen, getD_leBytes _ hk, lane_eq_ofNat]

theorem readByte_storeWord_outside (m : Memory) {off a : Nat} (v : Word) (h : a < off ∨ off + 4 ≤ a) :
    readByte (storeBytes m off (leBytes 4 v.toNat)) a = readByte m a :=
  readByte_storeBytes_outside _ m off (by rwa [length_leBytes])

end Sys2Proof.Machine

/-! The address map read from the register's side (R61): the offset of each word, and that `locate` is its inverse. -/

namespace Sys2Proof.Machine

/-! ## The offset of a location -/

/-- The number of a curve register's slot (R61). -/
def CurveReg.slot : CurveReg → Nat
  | .cp => 0
  | .ca => 1
  | .cb => 2
  | .gx => 3
  | .gy => 4
  | .cn => 5

/-- The byte offset at which R61 lists a word of the window. -/
def Loc.offset : Loc → Nat
  | .id => 0x00
  | .config => 0x04
  | .cmd => 0x08
  | .status => 0x0C
  | .ctrl => 0x10
  | .fault => 0x14
  | .buffer off | .digest off => off
  | .sh i hi => 0x240 + 8 * i + 4 * hi.toNat
  | .slen hi => 0x280 + 4 * hi.toNat
  | .smode => 0x288
  | .rh i => 0x2A0 + 4 * i
  | .rlen hi => 0x2B8 + 4 * hi.toNat
  | .reg k j => 0x1000 + 0x100 * k + 4 * j
  | .curve c j => 0x2000 + 0x100 * c.slot + 4 * j
  | .ptX i j => 0x3000 + 0x400 * i + 4 * j
  | .ptY i j => 0x3100 + 0x400 * i + 4 * j
  | .ptInf i => 0x3200 + 0x400 * i

/-- The words that R61 lists: those of `Loc.InWindow`, and of `DIG` the words inside it. -/
def Loc.Listed (nw : Nat) : Loc → Prop
  | .digest off => digBase ≤ off ∧ off < bufEnd
  | loc => loc.InWindow nw

/-- R61 lists the word at that offset. -/
def Loc.ListedAt (nw off : Nat) (loc : Loc) : Prop := loc.offset = off ∧ loc.Listed nw

theorem curveRegOf_slot (c : CurveReg) : curveRegOf c.slot = some c := by cases c <;> rfl

theorem slot_lt (c : CurveReg) : c.slot < 6 := by cases c <;> decide

theorem slot_of_curveRegOf : ∀ {k : Nat} {c : CurveReg}, curveRegOf k = some c → c.slot = k
  | 0, _, h | 1, _, h | 2, _, h | 3, _, h | 4, _, h | 5, _, h => by
    cases h
    rfl
  | _ + 6, _, h => by cases h

theorem nw_le (c : Config) : c.nw ≤ 64 := c.nwPred.isLt

theorem boolToNat_decide_mod_two (n : Nat) : (decide (n % 2 = 1)).toNat = n % 2 := by
  rcases Nat.mod_two_eq_zero_or_one n with h | h <;> rw [h] <;> rfl

theorem byteOffset_mod_four (idx : WordIdx) : byteOffset idx % 4 = 0 := Nat.mul_mod_right 4 _

theorem byteOffset_lt (idx : WordIdx) : byteOffset idx < 0x4000 := by
  have := idx.isLt
  unfold byteOffset
  omega

/-! ## What `locate` finds is listed there -/

section

variable {nw off : Nat} {loc : Loc}

theorem listedAt_of_locateControl (h : locateControl off = some loc) : loc.ListedAt nw off := by
  unfold locateControl at h
  split_ifs at h <;> cases h <;> exact ⟨Eq.symm ‹off = _›, trivial⟩

theorem listedAt_of_locateHash (hal : off % 4 = 0) (hlo : 0x240 ≤ off) (h : locateHash off = some loc) :
    loc.ListedAt nw off := by
  unfold locateHash at h
  split_ifs at h with hsh hlow hhigh hmode hrh hrlow hrhigh <;> cases h
  · refine ⟨?_, trivial⟩
    simp only [Loc.offset, Fin.ofNat, boolToNat_decide_mod_two]
    omega
  · exact ⟨hlow.symm, trivial⟩
  · exact ⟨hhigh.symm, trivial⟩
  · exact ⟨hmode.symm, trivial⟩
  · refine ⟨?_, trivial⟩
    simp only [Loc.offset, Fin.ofNat]
    omega
  · exact ⟨hrlow.symm, trivial⟩
  · exact ⟨hrhigh.symm, trivial⟩

theorem listedAt_of_locateWide (hal : off % 4 = 0) (hlo : 0x1000 ≤ off) (hhi : off < 0x4000)
    (h : locateWide nw off = some loc) : loc.ListedAt nw off := by
  unfold locateWide at h
  dsimp only at h
  split at h
  · split_ifs at h with hreg
    cases h
    refine ⟨?_, hreg.2⟩
    simp only [Loc.offset, Fin.ofNat]
    omega
  split at h
  · split_ifs at h with hj
    obtain ⟨c, hc, rfl⟩ := Option.map_eq_some_iff.1 h
    refine ⟨?_, hj⟩
    rw [Loc.offset, slot_of_curveRegOf hc]
    omega
  split at h
  · split_ifs at h with hj
    cases h
    refine ⟨?_, hj⟩
    simp only [Loc.offset, Fin.ofNat]
    omega
  · split_ifs at h with hj
    cases h
    refine ⟨?_, hj⟩
    simp only [Loc.offset, Fin.ofNat]
    omega
  · split_ifs at h
    cases h
    refine ⟨?_, trivial⟩
    simp only [Loc.offset, Fin.ofNat]
    omega
  · cases h

end

theorem listedAt_of_locate {c : Config} {idx : WordIdx} {loc : Loc} (h : locate c (byteOffset idx) = some loc) :
    loc.ListedAt c.nw (byteOffset idx) := by
  have hal := byteOffset_mod_four idx
  have hwindow := inWindow_of_locate h
  unfold locate at h
  split_ifs at h with hcontrol hbuffer hdigest hhash hgap
  · exact listedAt_of_locateControl h
  · cases h
    exact ⟨rfl, hwindow⟩
  · cases h
    exact ⟨rfl, Nat.le_of_not_lt hbuffer, hdigest⟩
  · exact listedAt_of_locateHash hal (Nat.le_of_not_lt hdigest) h
  · exact listedAt_of_locateWide hal (Nat.le_of_not_lt hgap) (byteOffset_lt idx) h

/-! ## What is listed is found -/

theorem locate_of_wide (c : Config) {off : Nat} (h : 0x1000 ≤ off) : locate c off = locateWide c.nw off := by
  unfold locate
  rw [if_neg (by omega), if_neg (by omega), if_neg (by omega), if_neg (by omega), if_neg (by omega)]

section

variable {c : Config} {off j : Nat}

theorem locate_reg {k : RegIdx} (hj : j < c.nw) (h : (Loc.reg k j).offset = off) : locate c off = some (.reg k j) := by
  have hk := k.isLt
  have hnw := nw_le c
  have hoff : 0x1000 + 0x100 * k.val + 4 * j = off := h
  have hlt : off < 0x2000 := by omega
  have hslot : off / 0x100 % 0x10 = k := by omega
  have hword : off % 0x100 / 4 = j := by omega
  rw [locate_of_wide c (by omega)]
  simp only [locateWide]
  rw [if_pos hlt, hslot, hword, if_pos ⟨hk, hj⟩, Fin.ofNat_val_eq_self]

theorem locate_curve {r : CurveReg} (hj : j < c.nw) (h : (Loc.curve r j).offset = off) :
    locate c off = some (.curve r j) := by
  have hr := slot_lt r
  have hnw := nw_le c
  have hoff : 0x2000 + 0x100 * r.slot + 4 * j = off := h
  have hlo : ¬ off < 0x2000 := by omega
  have hhi : off < 0x3000 := by omega
  have hslot : off / 0x100 % 0x10 = r.slot := by omega
  have hword : off % 0x100 / 4 = j := by omega
  rw [locate_of_wide c (by omega)]
  simp only [locateWide]
  rw [if_neg hlo, if_pos hhi, hslot, hword, if_pos hj, curveRegOf_slot, Option.map_some]

/-- What the offset of a word of a point register tells: the register, the quarter `q` of its slot, the word in it. -/
theorem point_fields {i q : Nat} (hi : i < 4) (hq : q < 4) (hj : j < 64)
    (hoff : 0x3000 + 0x400 * i + 0x100 * q + 4 * j = off) :
    0x1000 ≤ off ∧ ¬ off < 0x2000 ∧ ¬ off < 0x3000 ∧ off / 0x100 % 0x10 / 4 = i ∧ off / 0x100 % 0x10 % 4 = q ∧
      off % 0x100 / 4 = j := by
  omega

theorem locate_ptX {i : PtIdx} (hj : j < c.nw) (h : (Loc.ptX i j).offset = off) : locate c off = some (.ptX i j) := by
  obtain ⟨hwide, hlo, hmid, hi, hq, hword⟩ := point_fields i.isLt (q := 0) (by decide) (hj.trans_le (nw_le c)) h
  simp [locate_of_wide c hwide, locateWide, hlo, hmid, hi, hq, hword, hj]

theorem locate_ptY {i : PtIdx} (hj : j < c.nw) (h : (Loc.ptY i j).offset = off) : locate c off = some (.ptY i j) := by
  have hoff : 0x3000 + 0x400 * i.val + 0x100 * 1 + 4 * j = off := by
    rw [← h, Loc.offset]
    omega
  obtain ⟨hwide, hlo, hmid, hi, hq, hword⟩ := point_fields i.isLt (by decide) (hj.trans_le (nw_le c)) hoff
  simp [locate_of_wide c hwide, locateWide, hlo, hmid, hi, hq, hword, hj]

theorem locate_ptInf {i : PtIdx} (h : (Loc.ptInf i).offset = off) : locate c off = some (.ptInf i) := by
  have hoff : 0x3000 + 0x400 * i.val + 0x100 * 2 + 4 * 0 = off := by
    rw [← h, Loc.offset]
    omega
  obtain ⟨hwide, hlo, hmid, hi, hq, hword⟩ := point_fields i.isLt (by decide) (by decide) hoff
  simp [locate_of_wide c hwide, locateWide, hlo, hmid, hi, hq, hword]

end

theorem locate_of_listedAt {c : Config} {off : Nat} {loc : Loc} (h : loc.ListedAt c.nw off) : locate c off = some loc := by
  obtain ⟨hoff, hlisted⟩ := h
  cases loc with
  | id | config | cmd | status | ctrl | fault | smode => rw [← hoff]; rfl
  | slen hi | rlen hi => rw [← hoff]; cases hi <;> rfl
  | rh i => rw [← hoff]; fin_cases i <;> rfl
  | sh i hi => rw [← hoff]; cases hi <;> fin_cases i <;> rfl
  | buffer a =>
    obtain rfl : a = off := hoff
    obtain ⟨hlo, hhi⟩ := hlisted
    simp only [msgBase, digBase] at hlo hhi
    rw [locate, if_neg (by omega), if_pos (by omega)]
  | digest a =>
    obtain rfl : a = off := hoff
    obtain ⟨hlo, hhi⟩ := hlisted
    simp only [digBase, bufEnd] at hlo hhi
    rw [locate, if_neg (by omega), if_neg (by omega), if_pos (by omega)]
  | reg k j => exact locate_reg hlisted hoff
  | curve r j => exact locate_curve hlisted hoff
  | ptX i j => exact locate_ptX hlisted hoff
  | ptY i j => exact locate_ptY hlisted hoff
  | ptInf i => exact locate_ptInf hoff

/-- The address map of the model is R61's list. -/
theorem locate_eq_some_iff {c : Config} {idx : WordIdx} {loc : Loc} :
    locate c (byteOffset idx) = some loc ↔ loc.ListedAt c.nw (byteOffset idx) :=
  ⟨listedAt_of_locate, locate_of_listedAt⟩

/-! ## R61's list as ranges of offsets -/

/-- The offsets of the window that R61 lists, for `nw` words in an operand register. -/
def ListedOffset (nw off : Nat) : Prop :=
  off ≤ 0x14 ∨ 0x100 ≤ off ∧ off ≤ 0x288 ∨ 0x2A0 ≤ off ∧ off ≤ 0x2B0 ∨ off = 0x2B8 ∨ off = 0x2BC ∨
    (∃ k j, k < 8 ∧ j < nw ∧ off = 0x1000 + 0x100 * k + 4 * j) ∨
    (∃ k j, k < 6 ∧ j < nw ∧ off = 0x2000 + 0x100 * k + 4 * j) ∨
    (∃ i j, i < 4 ∧ j < nw ∧ (off = 0x3000 + 0x400 * i + 4 * j ∨ off = 0x3100 + 0x400 * i + 4 * j)) ∨
    ∃ i, i < 4 ∧ off = 0x3200 + 0x400 * i

theorem listedOffset_of_listedAt {nw off : Nat} {loc : Loc} (hal : off % 4 = 0) (h : loc.ListedAt nw off) :
    ListedOffset nw off := by
  obtain ⟨hoff, hlisted⟩ := h
  unfold ListedOffset
  cases loc with
  | reg k j => exact .inr (.inr (.inr (.inr (.inr (.inl ⟨k, j, k.isLt, hlisted, hoff.symm⟩)))))
  | curve r j => exact .inr (.inr (.inr (.inr (.inr (.inr (.inl ⟨r.slot, j, slot_lt r, hlisted, hoff.symm⟩))))))
  | ptX i j =>
    exact .inr (.inr (.inr (.inr (.inr (.inr (.inr (.inl ⟨i, j, i.isLt, hlisted, .inl hoff.symm⟩)))))))
  | ptY i j =>
    exact .inr (.inr (.inr (.inr (.inr (.inr (.inr (.inl ⟨i, j, i.isLt, hlisted, .inr hoff.symm⟩)))))))
  | ptInf i => exact .inr (.inr (.inr (.inr (.inr (.inr (.inr (.inr ⟨i, i.isLt, hoff.symm⟩)))))))
  | buffer a =>
    obtain ⟨hlo, hhi⟩ := hlisted
    simp only [msgBase, digBase, Loc.offset] at hlo hhi hoff
    omega
  | digest a =>
    obtain ⟨hlo, hhi⟩ := hlisted
    simp only [digBase, bufEnd, Loc.offset] at hlo hhi hoff
    omega
  | sh i hi =>
    have := hi.toNat_lt
    simp only [Loc.offset] at hoff
    omega
  | slen hi =>
    have := hi.toNat_lt
    simp only [Loc.offset] at hoff
    omega
  | rlen hi =>
    have := hi.toNat_lt
    simp only [Loc.offset] at hoff
    omega
  | id | config | cmd | status | ctrl | fault | smode | rh _ =>
    simp only [Loc.offset] at hoff
    omega

theorem exists_slot : ∀ {k : Nat}, k < 6 → ∃ r : CurveReg, r.slot = k
  | 0, _ => ⟨.cp, rfl⟩
  | 1, _ => ⟨.ca, rfl⟩
  | 2, _ => ⟨.cb, rfl⟩
  | 3, _ => ⟨.gx, rfl⟩
  | 4, _ => ⟨.gy, rfl⟩
  | 5, _ => ⟨.cn, rfl⟩

theorem exists_listedAt_of_listedOffset {nw off : Nat} (hal : off % 4 = 0) (h : ListedOffset nw off) :
    ∃ loc : Loc, loc.ListedAt nw off := by
  rcases h with h | h | h | h | h | ⟨k, j, hk, hj, hoff⟩ | ⟨k, j, hk, hj, hoff⟩ | ⟨i, j, hi, hj, hoff | hoff⟩ |
    ⟨i, hi, hoff⟩
  · obtain hreg | hreg | hreg | hreg | hreg | hreg :
        off = 0x00 ∨ off = 0x04 ∨ off = 0x08 ∨ off = 0x0C ∨ off = 0x10 ∨ off = 0x14 := by omega
    · exact ⟨.id, hreg.symm, trivial⟩
    · exact ⟨.config, hreg.symm, trivial⟩
    · exact ⟨.cmd, hreg.symm, trivial⟩
    · exact ⟨.status, hreg.symm, trivial⟩
    · exact ⟨.ctrl, hreg.symm, trivial⟩
    · exact ⟨.fault, hreg.symm, trivial⟩
  · obtain hbuf | hdig | hsh | hreg | hreg | hreg : off + 4 ≤ 0x200 ∨ (0x200 ≤ off ∧ off < 0x240) ∨
        (0x240 ≤ off ∧ off < 0x280) ∨ off = 0x280 ∨ off = 0x284 ∨ off = 0x288 := by omega
    · exact ⟨.buffer off, rfl, h.1, hbuf⟩
    · exact ⟨.digest off, rfl, hdig⟩
    · refine ⟨.sh ⟨(off - 0x240) / 8, by omega⟩ ((off - 0x240) / 4 % 2 = 1), ?_, trivial⟩
      simp only [Loc.offset, boolToNat_decide_mod_two]
      omega
    · exact ⟨.slen false, hreg.symm, trivial⟩
    · exact ⟨.slen true, hreg.symm, trivial⟩
    · exact ⟨.smode, hreg.symm, trivial⟩
  · refine ⟨.rh ⟨(off - 0x2A0) / 4, by omega⟩, ?_, trivial⟩
    simp only [Loc.offset]
    omega
  · exact ⟨.rlen false, h.symm, trivial⟩
  · exact ⟨.rlen true, h.symm, trivial⟩
  · exact ⟨.reg ⟨k, hk⟩ j, hoff.symm, hj⟩
  · obtain ⟨r, rfl⟩ := exists_slot hk
    exact ⟨.curve r j, hoff.symm, hj⟩
  · exact ⟨.ptX ⟨i, hi⟩ j, hoff.symm, hj⟩
  · exact ⟨.ptY ⟨i, hi⟩ j, hoff.symm, hj⟩
  · exact ⟨.ptInf ⟨i, hi⟩, hoff.symm, trivial⟩

theorem locate_eq_none_iff {c : Config} {idx : WordIdx} :
    locate c (byteOffset idx) = none ↔ ¬ ListedOffset c.nw (byteOffset idx) := by
  have hal := byteOffset_mod_four idx
  rw [Option.eq_none_iff_forall_ne_some]
  refine ⟨fun hnone hlisted => ?_, fun hnot loc hloc => ?_⟩
  · obtain ⟨loc, hloc⟩ := exists_listedAt_of_listedOffset hal hlisted
    exact hnone loc (locate_eq_some_iff.2 hloc)
  · exact hnot (listedOffset_of_listedAt hal (locate_eq_some_iff.1 hloc))

/-! ## Accesses where no register is (R66) -/

section

variable {s : State} {idx : WordIdx}

theorem hostRead_of_unmapped (h : locate s.cfg (byteOffset idx) = none) :
    hostRead idx s = { s with faultBadaddr := true, rdata := 0 } := by
  simp [hostRead, memRead, h, noteBadAddress]

theorem memWrite_of_unmapped (h : locate s.cfg (byteOffset idx) = none) (v : Word) :
    memWrite idx v s = { s with faultBadaddr := true } := by
  simp [memWrite, h, noteBadAddress]

end

/-- Settles O12: `locate` finds exactly the words that R61 lists, and where it finds none an access only sets `BADADDR`. -/
theorem unmappedAccessRule : Obligations.UnmappedAccessRule := by
  refine ⟨fun c idx off hoff => ?_, fun s idx rest hloc => ⟨fun ht => ?_, fun v ht => ?_⟩⟩
  · subst hoff
    exact locate_eq_none_iff
  · rw [step_of_read ht, hostRead_of_unmapped (s := { s with turns := rest }) hloc]
  · rw [step_of_write ht, memWrite_of_unmapped (s := { s with turns := rest }) hloc]

end Sys2Proof.Machine

/-! Host accesses to the data registers and buffers: what a read gives after a write to the same and to another word. -/

namespace Sys2Proof.Machine

section

variable {s : State} {idx : WordIdx} {loc : Loc}

/-! ## Accesses of an idle host at a listed offset (R73) -/

theorem memRead_at (hb : s.busy = false) (h : loc.ListedAt s.cfg.nw (byteOffset idx)) :
    memRead idx s = (readLoc s loc, s) :=
  memRead_of_value (locate_of_listedAt h) (.inl hb)

theorem memWrite_at (hb : s.busy = false) (h : loc.ListedAt s.cfg.nw (byteOffset idx)) (v : Word) :
    memWrite idx v s = writeLoc v s loc :=
  memWrite_of_idle (locate_of_listedAt h) hb v

/-- An access to a word of an integer register: a read gives bits `32j+31 : 32j` of it, a write replaces them (R62). -/
theorem access_wide {old j : Nat} {v : Word} {put : Nat → State} (hb : s.busy = false)
    (h : loc.ListedAt s.cfg.nw (byteOffset idx)) (hread : readLoc s loc = wordOf old j)
    (hwrite : writeLoc v s loc = put (setWordOf old j v)) :
    WordAt j (memRead idx s).1 old ∧ ∃ x, memWrite idx v s = put x ∧ WordReplaced j v old x := by
  rw [memRead_at hb h, memWrite_at hb h, hread]
  exact ⟨wordAt_wordOf old j, _, hwrite, wordReplaced_setWordOf old j v⟩

/-- An access to a half of a 64-bit register, which is its word 0 or 1 (R62). -/
theorem access_half {old : DWord} {hi : Bool} {v : Word} {put : DWord → State} (hb : s.busy = false)
    (h : loc.ListedAt s.cfg.nw (byteOffset idx)) (hread : readLoc s loc = halfOf old hi)
    (hwrite : writeLoc v s loc = put (setHalfOf old hi v)) :
    WordAt hi.toNat (memRead idx s).1 old.toNat ∧
      ∃ x : DWord, memWrite idx v s = put x ∧ WordReplaced hi.toNat v old.toNat x.toNat := by
  rw [memRead_at hb h, memWrite_at hb h, hread, halfOf_eq_wordOf]
  refine ⟨wordAt_wordOf _ _, _, hwrite, ?_⟩
  rw [toNat_setHalfOf]
  exact wordReplaced_setWordOf _ _ v

theorem exists_half {h : Nat} (hh : h < 2) : ∃ hi : Bool, hi.toNat = h := by
  obtain rfl | rfl : h = 0 ∨ h = 1 := by omega
  · exact ⟨false, rfl⟩
  · exact ⟨true, rfl⟩

/-! ## The same word after a write (R67, R73) -/

theorem readCurveReg_writeCurveReg (c c' : CurveReg) (x : Nat) (s : State) :
    readCurveReg (writeCurveReg c x s) c' = if c' = c then x else readCurveReg s c' := by
  cases c <;> cases c' <;> rfl

theorem writePointReg_pt_at (i k : PtIdx) (p : PointReg) (s : State) :
    (writePointReg i p s).pt[k] = if k = i then p else s.pt[k] := by
  simp [Vector.getElem_set, Fin.ext_iff, eq_comm]

theorem code_ofCode (n : Nat) : (ShaMode.ofCode n).code = n % 4 := by
  obtain h | h | h | h : n % 4 = 0 ∨ n % 4 = 1 ∨ n % 4 = 2 ∨ n % 4 = 3 := by omega
  all_goals simp only [ShaMode.ofCode, h, ShaMode.code]

/-- `SMODE` keeps bits 1:0 of the written word (R67). -/
theorem modeWord_written (v : Word) : BitVec.ofNat 32 (ShaMode.ofCode v.toNat).code = v &&& 3 := by
  refine BitVec.eq_of_toNat_eq ?_
  rw [code_ofCode, BitVec.toNat_ofNat, BitVec.toNat_and, show (3 : Word).toNat = 2 ^ 2 - 1 from rfl,
    Nat.and_two_pow_sub_one_eq_mod]
  omega

/-- `INF` keeps bit 0 of the written word (R67). -/
theorem infWord_written (v : Word) : BitVec.ofNat 32 (v.getLsbD 0).toNat = v &&& 1 := by
  refine BitVec.eq_of_toNat_eq ?_
  rw [BitVec.getLsbD, Nat.testBit_zero, boolToNat_decide_mod_two, BitVec.toNat_ofNat, BitVec.toNat_and,
    show (1 : Word).toNat = 2 ^ 1 - 1 from rfl, Nat.and_two_pow_sub_one_eq_mod]
  omega

/-- What a location shows of a word written to it: `SMODE` and `INF` keep the bits they have (R67). -/
def Loc.kept (v : Word) : Loc → Word
  | .smode => v &&& 3
  | .ptInf _ => v &&& 1
  | _ => v

theorem readLoc_writeLoc_same (hwf : Memory.wf s.mem = true) (hdata : loc.isControl = false)
    (hdig : ∀ off, loc ≠ .digest off) (v : Word) : readLoc (writeLoc v s loc) loc = loc.kept v := by
  cases loc with
  | id | config | cmd | status | ctrl | fault => cases hdata
  | digest off => exact absurd rfl (hdig off)
  | buffer off =>
    refine eq_of_lanes fun k hk => ?_
    rw [readLoc, lane_loadBytes _ _ hk]
    exact readByte_storeWord hwf off v hk
  | sh i hi => simp [readLoc, writeLoc, Loc.kept]
  | slen hi => exact halfOf_setHalfOf_same _ hi v
  | smode => exact modeWord_written v
  | rh i => simp [readLoc, writeLoc, Loc.kept]
  | rlen hi => exact halfOf_setHalfOf_same _ hi v
  | reg k j => simp [readLoc, writeLoc, Loc.kept]
  | curve c j => simp [readLoc, writeLoc, Loc.kept, readCurveReg_writeCurveReg]
  | ptX i j => simp [readLoc, writeLoc, Loc.kept]
  | ptY i j => simp [readLoc, writeLoc, Loc.kept]
  | ptInf i =>
    rw [readLoc, writeLoc, writePointReg_pt_at, if_pos rfl]
    exact infWord_written v

/-! ## Another word after a write (R64, R65)

For each register, a write changes no word but those in which the new value differs from the old one. -/

section

variable {other : Loc}

theorem readLoc_writeReg {k : RegIdx} {x : Nat} (h : ∀ j, other = .reg k j → wordOf x j = wordOf (readReg s k) j) :
    readLoc (writeReg k x s) other = readLoc s other := by
  cases other with
  | reg k' j =>
    by_cases hk : k' = k
    · subst hk
      simpa [readLoc] using h j rfl
    · simp only [readLoc, readReg_writeReg_ne hk]
  | _ => rfl

theorem readLoc_writeCurveReg {c : CurveReg} {x : Nat}
    (h : ∀ j, other = .curve c j → wordOf x j = wordOf (readCurveReg s c) j) :
    readLoc (writeCurveReg c x s) other = readLoc s other := by
  cases other with
  | curve c' j =>
    rw [readLoc, readLoc, readCurveReg_writeCurveReg]
    split_ifs with hc
    · subst hc
      exact h j rfl
    · rfl
  | _ => cases c <;> rfl

theorem readLoc_writePointReg {i : PtIdx} {p : PointReg} (hx : ∀ j, other = .ptX i j → wordOf p.x j = wordOf s.pt[i].x j)
    (hy : ∀ j, other = .ptY i j → wordOf p.y j = wordOf s.pt[i].y j) (hinf : other = .ptInf i → p.inf = s.pt[i].inf) :
    readLoc (writePointReg i p s) other = readLoc s other := by
  cases other with
  | ptX k j =>
    rw [readLoc, readLoc, writePointReg_pt_at]
    split_ifs with hk
    · subst hk
      exact hx j rfl
    · rfl
  | ptY k j =>
    rw [readLoc, readLoc, writePointReg_pt_at]
    split_ifs with hk
    · subst hk
      exact hy j rfl
    · rfl
  | ptInf k =>
    rw [readLoc, readLoc, writePointReg_pt_at]
    split_ifs with hk
    · subst hk
      rw [hinf rfl]
    · rfl
  | _ => rfl

end

theorem loadBytes_congr {m m' : Memory} : ∀ {n base : Nat}, (∀ k < n, readByte m' (base + k) = readByte m (base + k)) →
    loadBytes m' base n = loadBytes m base n
  | 0, _, _ => rfl
  | n + 1, base, h => by
    have hrest : ∀ k < n, readByte m' (base + 1 + k) = readByte m (base + 1 + k) := fun k hk => by
      simpa only [Nat.add_assoc, Nat.add_comm 1 k] using h (k + 1) (by omega)
    rw [loadBytes, loadBytes, loadBytes_congr hrest, show readByte m' base = readByte m base from h 0 (by omega)]

/-- A word written to the word `j` of a register leaves the register's other words. -/
theorem wordOf_setWordOf_of_ne {word : Nat → Loc} {other : Loc} {j j' : Nat} (hne : other ≠ word j) (h : other = word j')
    (x : Nat) (v : Word) : wordOf (setWordOf x j v) j' = wordOf x j' :=
  wordOf_setWordOf_ne (show j' ≠ j from fun hj => hne (hj ▸ h)) x v

/-- Two words of the window share no byte. -/
def Loc.Apart (loc other : Loc) : Prop := other.offset + 4 ≤ loc.offset ∨ loc.offset + 4 ≤ other.offset

theorem Loc.Apart.ne {loc other : Loc} (h : loc.Apart other) : other ≠ loc := by
  rintro rfl
  rcases h with h | h <;> omega

theorem loadBytes_storeWord_apart (m : Memory) (v : Word) {off a : Nat} (h : a + 4 ≤ off ∨ off + 4 ≤ a) :
    loadBytes (storeBytes m off (leBytes 4 v.toNat)) a 4 = loadBytes m a 4 :=
  loadBytes_congr fun k hk => readByte_storeWord_outside m v (by omega)

theorem readLoc_writeLoc_apart {other : Loc} (hdata : loc.isControl = false) (h : loc.Apart other) (v : Word) :
    readLoc (writeLoc v s loc) other = readLoc s other := by
  have hne := h.ne
  cases loc with
  | id | config | cmd | status | ctrl | fault => cases hdata
  | digest off => rfl
  | buffer off =>
    cases other with
    | buffer a => exact congrArg (fun bs => BitVec.ofNat 32 (leNat bs)) (loadBytes_storeWord_apart s.mem v h)
    | digest a => exact congrArg (fun bs => BitVec.ofNat 32 (leNat bs)) (loadBytes_storeWord_apart s.mem v h)
    | _ => rfl
  | sh i hi =>
    cases other with
    | sh k hi' =>
      by_cases hk : k = i
      · subst hk
        have hhi : hi' ≠ hi := fun e => hne (e ▸ rfl)
        simp [readLoc, writeLoc, halfOf_setHalfOf_ne hhi]
      · have hk' : i.val ≠ k.val := fun e => hk (Fin.ext e.symm)
        simp [readLoc, writeLoc, hk']
    | _ => rfl
  | slen hi =>
    cases other with
    | slen hi' =>
      have hhi : hi' ≠ hi := fun e => hne (e ▸ rfl)
      exact halfOf_setHalfOf_ne hhi _ v
    | _ => rfl
  | smode =>
    cases other with
    | smode => exact absurd rfl hne
    | _ => rfl
  | rh i =>
    cases other with
    | rh k =>
      have hk : i.val ≠ k.val := fun e => hne (Fin.ext e ▸ rfl)
      simp [readLoc, writeLoc, hk]
    | _ => rfl
  | rlen hi =>
    cases other with
    | rlen hi' =>
      have hhi : hi' ≠ hi := fun e => hne (e ▸ rfl)
      exact halfOf_setHalfOf_ne hhi _ v
    | _ => rfl
  | reg k j => exact readLoc_writeReg fun j' e => wordOf_setWordOf_of_ne (word := .reg k) hne e _ v
  | curve c j => exact readLoc_writeCurveReg fun j' e => wordOf_setWordOf_of_ne (word := .curve c) hne e _ v
  | ptX i j =>
    have hx := fun j' e => wordOf_setWordOf_of_ne (word := .ptX i) (j' := j') hne e s.pt[i].x v
    exact readLoc_writePointReg hx (fun _ _ => rfl) fun _ => rfl
  | ptY i j =>
    have hy := fun j' e => wordOf_setWordOf_of_ne (word := .ptY i) (j' := j') hne e s.pt[i].y v
    exact readLoc_writePointReg (fun _ _ => rfl) hy fun _ => rfl
  | ptInf i => exact readLoc_writePointReg (fun _ _ => rfl) (fun _ _ => rfl) fun e => absurd e hne

/-- A write to a data register or buffer leaves the parameters and `BUSY`, on which the host's accesses depend. -/
theorem writeLoc_keeps_access (hdata : loc.isControl = false) (v : Word) :
    (writeLoc v s loc).cfg = s.cfg ∧ (writeLoc v s loc).busy = s.busy := by
  cases loc with
  | id | config | cmd | status | ctrl | fault => cases hdata
  | curve c j => cases c <;> exact ⟨rfl, rfl⟩
  | _ => exact ⟨rfl, rfl⟩

theorem apart_of_listedAt {nw : Nat} {idx other : WordIdx} {loc loc' : Loc} (h : loc.ListedAt nw (byteOffset idx))
    (h' : loc'.ListedAt nw (byteOffset other)) (hne : other ≠ idx) : loc.Apart loc' := by
  have hnat : other.toNat ≠ idx.toNat := fun e => hne (BitVec.eq_of_toNat_eq e)
  unfold Loc.Apart
  rw [h.1, h'.1, byteOffset, byteOffset]
  omega

end

/-- Settles O15: the write changes neither the map nor `BUSY`, and two words at different indices of the window lie apart. -/
theorem writeLeavesOtherWords : Obligations.WriteLeavesOtherWords := by
  intro s idx other v loc _ hb hloc hdata hne
  obtain ⟨hcfg, hbusy⟩ := writeLoc_keeps_access (s := s) hdata v
  rw [memWrite_of_idle hloc hb]
  rcases memRead_cases other s with ⟨hnone, heq⟩ | ⟨_, -, hbusy', -, -⟩ | ⟨loc', hloc', -, heq⟩
  · rw [heq, memRead, hcfg, hnone]
  · exact absurd (hb.symm.trans hbusy') (by decide)
  · rw [heq, memRead_of_value (hcfg ▸ hloc') (.inl (hbusy.trans hb))]
    exact readLoc_writeLoc_apart hdata (apart_of_listedAt (listedAt_of_locate hloc) (listedAt_of_locate hloc') hne) v

/-! ## The buffers' words (R61, R62) -/

theorem byteOffset_buffers {j : Nat} (hj : j < 80) : byteOffset (BitVec.ofNat 12 (0x40 + j)) = msgBase + 4 * j := by
  rw [byteOffset, BitVec.toNat_ofNat, msgBase]
  omega

/-- Word `j` of `MSG` and `KEY`. -/
theorem listedAt_buffer {nw j : Nat} (hj : j < 64) :
    (Loc.buffer (msgBase + 4 * j)).ListedAt nw (byteOffset (BitVec.ofNat 12 (0x40 + j))) := by
  refine ⟨(byteOffset_buffers (by omega)).symm, Nat.le_add_right _ _, ?_⟩
  simp only [msgBase, digBase]
  omega

/-- Word `j` of `MSG`, `KEY` and `DIG`, counted from the start of `MSG`, in the last of the three. -/
theorem listedAt_digest {nw j : Nat} (hlo : 64 ≤ j) (hj : j < 80) :
    (Loc.digest (msgBase + 4 * j)).ListedAt nw (byteOffset (BitVec.ofNat 12 (0x40 + j))) := by
  refine ⟨(byteOffset_buffers hj).symm, ?_, ?_⟩
  · simp only [msgBase, digBase]
    omega
  · simp only [msgBase, bufEnd]
    omega

theorem memRead_buffers {s : State} {j : Nat} (hb : s.busy = false) (hj : j < 80) :
    (memRead (BitVec.ofNat 12 (0x40 + j)) s).1 = BitVec.ofNat 32 (leNat (loadBytes s.mem (msgBase + 4 * j) 4)) := by
  rcases Nat.lt_or_ge j 64 with hlt | hge
  · rw [memRead_at hb (listedAt_buffer hlt), readLoc]
  · rw [memRead_at hb (listedAt_digest hge hj), readLoc]

theorem memWrite_buffers {s : State} {j : Nat} (hb : s.busy = false) (hj : j < 64) (v : Word) :
    (memWrite (BitVec.ofNat 12 (0x40 + j)) v s).mem = storeBytes s.mem (msgBase + 4 * j) (leBytes 4 v.toNat) := by
  rw [memWrite_at hb (listedAt_buffer hj), writeLoc]

/-- Settles O16: a word of the buffers is read from four bytes and stored as four bytes, and each of them is a lane of it. -/
theorem byteLanes : Obligations.ByteLanes := by
  refine ⟨fun s j k hb hj hk => ?_, fun s j v hwf hb hj => ⟨fun k hk => ?_, fun a ha => ?_⟩⟩
  · rw [memRead_buffers hb hj, lane_loadBytes _ _ hk]
  · rw [memWrite_buffers hb hj, readByte_storeWord hwf _ v hk]
  · rw [memWrite_buffers hb hj, readByte_storeWord_outside _ v ha]

/-! ## The address map of the data registers (R61, R62) -/

theorem modes_at_code (m : ShaMode) :
    [ShaMode.sha224, .sha256, .sha384, .sha512][(BitVec.ofNat 32 m.code).toNat]? = some m := by
  cases m <;> rfl

theorem modes_at_mod (n : Nat) : [ShaMode.sha224, .sha256, .sha384, .sha512][n % 4]? = some (.ofCode n) := by
  have h : ∀ m : ShaMode, [ShaMode.sha224, .sha256, .sha384, .sha512][m.code]? = some m := fun m => by cases m <;> rfl
  rw [← code_ofCode, h]

section

variable {s : State} {idx : WordIdx} (hb : s.busy = false)

include hb

theorem readsBack {loc : Loc} (hwf : Memory.wf s.mem = true) (hloc : locate s.cfg (byteOffset idx) = some loc)
    (hdata : loc.isControl = false) (hdig : ∀ off, loc ≠ .digest off) (v : Word) :
    (memRead idx (memWrite idx v s)).1 = loc.kept v := by
  obtain ⟨hcfg, hbusy⟩ := writeLoc_keeps_access (s := s) hdata v
  rw [memWrite_of_idle hloc hb, memRead_of_value (hcfg ▸ hloc) (.inl (hbusy.trans hb))]
  exact readLoc_writeLoc_same hwf hdata hdig v

theorem access_curve (c : CurveReg) {j : Nat} (hj : j < s.cfg.nw) (v : Word)
    (hoff : byteOffset idx = 0x2000 + 0x100 * c.slot + 4 * j) :
    WordAt j (memRead idx s).1 (readCurveReg s c) ∧
      ∃ x, memWrite idx v s = writeCurveReg c x s ∧ WordReplaced j v (readCurveReg s c) x :=
  access_wide (loc := .curve c j) hb ⟨hoff.symm, hj⟩ rfl rfl

theorem access_smode (v : Word) (hoff : byteOffset idx = 0x288) :
    [ShaMode.sha224, .sha256, .sha384, .sha512][(memRead idx s).1.toNat]? = some s.smode ∧
      ∃ m, memWrite idx v s = { s with smode := m } ∧
        [ShaMode.sha224, .sha256, .sha384, .sha512][v.toNat % 4]? = some m := by
  have hat : Loc.smode.ListedAt s.cfg.nw (byteOffset idx) := ⟨hoff.symm, trivial⟩
  rw [memRead_at hb hat, memWrite_at hb hat]
  exact ⟨modes_at_code s.smode, _, rfl, modes_at_mod v.toNat⟩

theorem access_inf (i : PtIdx) (v : Word) (hoff : byteOffset idx = 0x3200 + 0x400 * i) :
    (memRead idx s).1 = (if s.pt[i].inf then 1 else 0) ∧
      memWrite idx v s = { s with pt := s.pt.set i { s.pt[i] with inf := v.getLsbD 0 } } := by
  have hat : (Loc.ptInf i).ListedAt s.cfg.nw (byteOffset idx) := ⟨hoff.symm, trivial⟩
  rw [memRead_at hb hat, memWrite_at hb hat, readLoc]
  refine ⟨?_, rfl⟩
  cases s.pt[i].inf <;> rfl

end

/-- Settles O14: a written word is found again at its location, and at each offset the location that R61 lists there is a
word of an integer register, a half of a 64-bit register, or a register of one word. -/
theorem writeReadsBack : Obligations.WriteReadsBack := by
  refine ⟨fun s idx v loc hinv hb hloc hdata hdig => ?_, fun s idx v hb => ⟨fun k j hj hoff => ?_, fun j hj => ?_,
    fun i j hj => ⟨fun hoff => ?_, fun hoff => ?_⟩, fun i hoff => access_inf hb i v hoff, fun i h hh hoff => ?_,
    fun h hh => ?_, access_smode hb v, fun i hoff => ?_⟩⟩
  · obtain ⟨-, ⟨hwf, -⟩, -⟩ := hinv
    rw [readsBack hb hwf hloc hdata hdig]
    cases loc <;> simp [Loc.kept]
  · exact access_wide (loc := .reg k j) hb ⟨hoff.symm, hj⟩ rfl rfl
  · exact ⟨access_curve hb .cp hj v, access_curve hb .ca hj v, access_curve hb .cb hj v, access_curve hb .gx hj v,
      access_curve hb .gy hj v, access_curve hb .cn hj v⟩
  · exact access_wide (loc := .ptX i j) hb ⟨hoff.symm, hj⟩ rfl rfl
  · exact access_wide (loc := .ptY i j) hb ⟨hoff.symm, hj⟩ rfl rfl
  · obtain ⟨hi, rfl⟩ := exists_half hh
    exact access_half (loc := .sh i hi) hb ⟨hoff.symm, trivial⟩ rfl rfl
  · obtain ⟨hi, rfl⟩ := exists_half hh
    exact ⟨fun hoff => access_half (loc := .slen hi) hb ⟨hoff.symm, trivial⟩ rfl rfl,
      fun hoff => access_half (loc := .rlen hi) hb ⟨hoff.symm, trivial⟩ rfl rfl⟩
  · have hat : (Loc.rh i).ListedAt s.cfg.nw (byteOffset idx) := ⟨hoff.symm, trivial⟩
    rw [memRead_at hb hat, memWrite_at hb hat]
    exact ⟨rfl, rfl⟩

end Sys2Proof.Machine

/-! Decoding and encoding: what the table lookup answers, that each row's fields and mask cover the whole word, and which
words are illegal (30_encoding.md). -/

namespace Sys2Proof

open Sys2Proof.Machine Sys2Proof.Laws

/-! ## The decoder as a relation between words and commands (R90) -/

/-- A word passes a row's mask test, and the row's fields in it name a command. -/
def OpRow.Reads (row : OpRow) (w : Word) (i : Instr) : Prop :=
  w &&& row.mask = row.pattern ∧ row.operands w = some i

/-- The lookup answers the one row of an opcode: no two rows share it. -/
theorem rowOf_eq_some_iff {op : BitVec 8} {row : OpRow} : rowOf op = some row ↔ row ∈ opRows ∧ row.opcode = op := by
  constructor
  · intro h
    exact ⟨List.mem_of_find?_eq_some h, by simpa using List.find?_some h⟩
  · rintro ⟨hmem, hop⟩
    cases hrow : rowOf op with
    | none => simpa [hop] using List.find?_eq_none.1 hrow row hmem
    | some other =>
      have hother : other.opcode = op := by simpa using List.find?_some hrow
      exact congrArg some
        (List.inj_on_of_nodup_map opcodes_distinct (List.mem_of_find?_eq_some hrow) hmem (hother.trans hop.symm))

theorem rowOf_eq_none_iff {op : BitVec 8} : rowOf op = none ↔ ∀ row ∈ opRows, row.opcode ≠ op := by
  simp [rowOf]

/-- A property of every row of the opcode map is shown unit by unit (R84). -/
theorem forall_mem_opRows {P : OpRow → Prop} (hM : ∀ row ∈ rowsM, P row) (hH : ∀ row ∈ rowsH, P row)
    (hP : ∀ row ∈ rowsP, P row) : ∀ row ∈ opRows, P row :=
  List.forall_mem_append.2 ⟨List.forall_mem_append.2 ⟨hM, hH⟩, hP⟩

/-- The decoder answers exactly the well-formed command that the row of the word's opcode reads (R90). -/
theorem decode_eq_ok_iff {w : Word} {i : Instr} :
    decode w = .ok i ↔ ∃ row, rowOf (w.extractLsb' 0 8) = some row ∧ row.Reads w i ∧ i.wellFormed = true := by
  unfold decode OpRow.Reads
  cases rowOf (w.extractLsb' 0 8) with
  | none => simp
  | some row =>
    by_cases hmask : w &&& row.mask = row.pattern
    · cases hops : row.operands w with
      | none => simp [hmask, hops]
      | some j =>
        by_cases hwf : j.wellFormed = true
        · simp only [hmask, hops, hwf, if_true, Except.ok.injEq, Option.some.injEq, exists_eq_left', true_and]
          exact ⟨fun h => ⟨h, h ▸ hwf⟩, And.left⟩
        · simp only [hmask, hops, hwf, if_true, Option.some.injEq, exists_eq_left', true_and]
          exact ⟨nofun, fun ⟨h, hi⟩ => absurd (h ▸ hi) hwf⟩
    · simp [hmask]

/-- A word is illegal when it decodes to no command. -/
theorem decode_error_iff {w : Word} : (∃ e, decode w = .error e) ↔ ∀ i, decode w ≠ .ok i := by
  cases decode w <;> simp

/-! ## The codes of the hash algorithms (R82, R130) -/

theorem shaModeCode_lt (m : ShaMode) : m.code < 2 ^ 2 := by cases m <;> decide

theorem ofCode_shaModeCode (m : ShaMode) : ShaMode.ofCode m.code = m := by cases m <;> rfl

theorem ofCode_algCode : ∀ alg : Alg, Alg.ofCode alg.code = some alg
  | .sha m => by cases m <;> rfl
  | .rmd160 => rfl

/-- An algorithm has the code it was read from: the five legal codes name five algorithms. -/
theorem algCode_of_ofCode {n : Nat} {alg : Alg} (h : Alg.ofCode n = some alg) : alg.code = n := by
  unfold Alg.ofCode at h
  split_ifs at h with hsha hrmd <;> cases h
  · exact (code_ofCode n).trans (Nat.mod_eq_of_lt hsha)
  · exact hrmd.symm

theorem algOfCode_eq_none_iff {n : Nat} : Alg.ofCode n = none ↔ 4 < n := by
  unfold Alg.ofCode
  split_ifs with hsha hrmd <;> simp <;> omega

/-! ## Fields of a word: reading one and placing it (R81, R82) -/

section

variable {w m : Word} {lo pos len n : Nat}

/-- A field that is read and placed again is the word under the field's mask. -/
theorem placed_field (w : Word) (lo len : Nat) :
    placed (w.extractLsb' lo len).toNat lo = w &&& placed (2 ^ len - 1) lo := by
  refine BitVec.eq_of_getLsbD_eq fun b hb => ?_
  rw [BitVec.getLsbD_and, getLsbD_placed, getLsbD_placed, BitVec.testBit_toNat, BitVec.getLsbD_extractLsb',
    Nat.testBit_two_pow_sub_one]
  by_cases hlo : b < lo
  · simp [hlo]
  · have hpos : lo + (b - lo) = b := by omega
    simp [hb, hlo, hpos, Bool.and_comm]

theorem placed_fieldAt (w : Word) (lo len : Nat) : placed (fieldAt w lo len) lo = w &&& placed (2 ^ len - 1) lo :=
  placed_field w lo len

theorem placed_regAt (w : Word) (lo : Nat) : placed (regAt w lo) lo = w &&& placed (2 ^ 3 - 1) lo := placed_field w lo 3

theorem placed_ptAt (w : Word) (lo : Nat) : placed (ptAt w lo) lo = w &&& placed (2 ^ 2 - 1) lo := placed_field w lo 2

theorem placed_immAt (w : Word) (lo : Nat) : placed (immAt w lo).toNat lo = w &&& placed (2 ^ 8 - 1) lo :=
  placed_field w lo 8

/-- A word is the bits under a mask and the bits under the rest. -/
theorem or_and_of_covers {mask rest pattern : Word} (h : w &&& mask = pattern) (hcover : mask ||| rest = BitVec.allOnes 32) :
    pattern ||| (w &&& rest) = w := by
  rw [← h, ← BitVec.and_or_distrib_left, hcover, BitVec.and_allOnes]

/-- A placed value of `n` bits adds nothing under a mask that has no bit there. -/
theorem placed_and_of_unmasked {v : Nat} (hv : v < 2 ^ n) (hm : m.extractLsb' lo n = 0#n) : placed v lo &&& m = 0#32 := by
  refine BitVec.eq_of_getLsbD_eq fun b _ => ?_
  rw [BitVec.getLsbD_and, getLsbD_placed, BitVec.getLsbD_zero]
  by_cases hlo : b < lo
  · simp [hlo]
  by_cases hin : b - lo < n
  · have hpos : lo + (b - lo) = b := by omega
    have hbit : m.getLsbD b = false := by simpa [hin, hpos] using congrArg (·.getLsbD (b - lo)) hm
    simp [hbit]
  · have hbit : v.testBit (b - lo) = false :=
      Nat.testBit_lt_two_pow (hv.trans_le (Nat.pow_le_pow_right (by decide) (Nat.le_of_not_lt hin)))
    simp [hbit]

/-! Each kind of operand has its own width (R82). -/

@[simp] theorem placed_reg_and (r : RegIdx) (hm : m.extractLsb' lo 3 = 0#3) : placed r lo &&& m = 0#32 :=
  placed_and_of_unmasked r.isLt hm

@[simp] theorem placed_pt_and (p : PtIdx) (hm : m.extractLsb' lo 2 = 0#2) : placed p lo &&& m = 0#32 :=
  placed_and_of_unmasked p.isLt hm

@[simp] theorem placed_imm_and (x : BitVec 8) (hm : m.extractLsb' lo 8 = 0#8) : placed x.toNat lo &&& m = 0#32 :=
  placed_and_of_unmasked x.isLt hm

@[simp] theorem placed_shaMode_and (a : ShaMode) (hm : m.extractLsb' lo 2 = 0#2) : placed a.code lo &&& m = 0#32 :=
  placed_and_of_unmasked (shaModeCode_lt a) hm

@[simp] theorem placed_alg_and (a : Alg) (hm : m.extractLsb' lo 3 = 0#3) : placed a.code lo &&& m = 0#32 :=
  placed_and_of_unmasked (algCode_lt a) hm

@[simp] theorem field_reg_disjoint (r : RegIdx) (h : lo + 3 ≤ pos ∨ pos + len ≤ lo) :
    (placed r lo).extractLsb' pos len = 0#len :=
  field_placed_disjoint (n := 3) r.isLt h

@[simp] theorem field_pt_disjoint (p : PtIdx) (h : lo + 2 ≤ pos ∨ pos + len ≤ lo) :
    (placed p lo).extractLsb' pos len = 0#len :=
  field_placed_disjoint (n := 2) p.isLt h

@[simp] theorem field_imm_disjoint (x : BitVec 8) (h : lo + 8 ≤ pos ∨ pos + len ≤ lo) :
    (placed x.toNat lo).extractLsb' pos len = 0#len :=
  field_placed_disjoint x.isLt h

theorem regAt_eq_iff {r : RegIdx} : regAt w lo = r ↔ w.extractLsb' lo 3 = BitVec.ofNat 3 r := by
  rw [← BitVec.toNat_inj, BitVec.toNat_ofNat, Nat.mod_eq_of_lt r.isLt]
  exact Fin.ext_iff

theorem ptAt_eq_iff {p : PtIdx} : ptAt w lo = p ↔ w.extractLsb' lo 2 = BitVec.ofNat 2 p := by
  rw [← BitVec.toNat_inj, BitVec.toNat_ofNat, Nat.mod_eq_of_lt p.isLt]
  exact Fin.ext_iff

theorem regAt_eq_regAt_iff {pos : Nat} : regAt w lo = regAt w pos ↔ fieldAt w lo 3 = fieldAt w pos 3 := Fin.ext_iff

theorem fieldAt_eq_of_field {v : Nat} (hv : v < 2 ^ len) (h : w.extractLsb' lo len = BitVec.ofNat len v) :
    fieldAt w lo len = v := by
  rw [fieldAt, h, BitVec.toNat_ofNat, Nat.mod_eq_of_lt hv]

end

/-! ## Every command is read from its own word -/

theorem opcodeByte (i : Instr) : (encode i).extractLsb' 0 8 = opcodeOf i := by
  cases i with
  | gcd rd ra rb => exact OpcodeByte.gcd rd ra rb
  | egcd rd rc re ra rb => exact OpcodeByte.egcd rd rc re ra rb
  | modinv rd ra rb => exact OpcodeByte.modinv rd ra rb
  | sqrtmod rd rc ra rb rounds => exact OpcodeByte.sqrtmod rd rc ra rb rounds
  | shaInit alg => exact OpcodeByte.shaInit alg
  | shaBlock => exact OpcodeByte.shaBlock
  | shaFinal nbytes => exact OpcodeByte.shaFinal nbytes
  | rmdInit => exact OpcodeByte.rmdInit
  | rmdBlock => exact OpcodeByte.rmdBlock
  | rmdFinal nbytes => exact OpcodeByte.rmdFinal nbytes
  | hmacInit alg klen => exact OpcodeByte.hmacInit alg klen
  | hmacFinal nbytes => exact OpcodeByte.hmacFinal nbytes
  | ecOncurve pa => exact OpcodeByte.ecOncurve pa
  | ecAdd pd pa pb => exact OpcodeByte.ecAdd pd pa pb
  | ecDbl pd pa => exact OpcodeByte.ecDbl pd pa
  | ecMul pd pa rk => exact OpcodeByte.ecMul pd pa rk
  | ecNeg pd pa => exact OpcodeByte.ecNeg pd pa
  | ecLdg pd => exact OpcodeByte.ecLdg pd

/-- The row of a command's opcode reads the command from its word: the fields do not meet each other or the row's mask. -/
theorem reads_encode (i : Instr) : ∃ row, rowOf (opcodeOf i) = some row ∧ row.Reads (encode i) i := by
  cases i with
  | shaBlock => exact ⟨_, rfl, rfl, rfl⟩
  | rmdInit => exact ⟨_, rfl, rfl, rfl⟩
  | rmdBlock => exact ⟨_, rfl, rfl, rfl⟩
  | shaInit alg =>
    refine ⟨_, rfl, by simp [encode, BitVec.and_or_distrib_right], ?_⟩
    have hcode : fieldAt (encode (.shaInit alg)) 8 2 = alg.code :=
      fieldAt_eq_of_field (shaModeCode_lt alg) (by simp [encode, BitVec.extractLsb'_or])
    simp [hcode, ofCode_shaModeCode]
  | hmacInit alg klen =>
    refine ⟨_, rfl, by simp [encode, BitVec.and_or_distrib_right], ?_⟩
    have hcode : fieldAt (encode (.hmacInit alg klen)) 8 3 = alg.code :=
      fieldAt_eq_of_field (algCode_lt alg) (by simp [encode, BitVec.extractLsb'_or])
    have hlen : immAt (encode (.hmacInit alg klen)) 16 = klen := by simp [immAt, encode, BitVec.extractLsb'_or]
    simp [hcode, hlen, ofCode_algCode]
  | _ =>
    refine ⟨_, rfl, by simp [encode, BitVec.and_or_distrib_right], ?_⟩
    simp [encode, immAt, regAt_eq_iff, ptAt_eq_iff, BitVec.extractLsb'_or]

/-- Settles O1: the opcode finds the row, and the row reads the command. -/
theorem decodeOfEncode : Obligations.DecodeOfEncode := by
  intro i hwf
  obtain ⟨row, hrow, hreads⟩ := reads_encode i
  exact decode_eq_ok_iff.2 ⟨row, (opcodeByte i).symm ▸ hrow, hreads, hwf⟩

/-! ## A word that a row reads is the word of the command

In each row the mask and the fields cover the 32 bits between them: a bit is either fixed by the row or part of a field. -/

/-- What a row reads from a word encodes to that word. -/
def OpRow.Exact (row : OpRow) : Prop := ∀ w i, row.Reads w i → encode i = w

theorem rowsM_exact : ∀ row ∈ rowsM, row.Exact := by
  simp only [rowsM, List.forall_mem_cons, List.not_mem_nil, false_imp_iff, implies_true, and_true]
  refine ⟨?_, ?_, ?_, ?_⟩ <;>
  · rintro w _ ⟨hmask, ⟨⟩⟩
    simp only [encode, placed_regAt, placed_immAt, BitVec.or_assoc, ← BitVec.and_or_distrib_left]
    exact or_and_of_covers hmask (by decide)

theorem rowsP_exact : ∀ row ∈ rowsP, row.Exact := by
  simp only [rowsP, List.forall_mem_cons, List.not_mem_nil, false_imp_iff, implies_true, and_true]
  refine ⟨?_, ?_, ?_, ?_, ?_, ?_⟩ <;>
  · rintro w _ ⟨hmask, ⟨⟩⟩
    simp only [encode, placed_regAt, placed_ptAt, BitVec.or_assoc, ← BitVec.and_or_distrib_left]
    exact or_and_of_covers hmask (by decide)

/-- In a row without fields the mask is the whole word. -/
theorem eq_of_fixed_word {w pattern : Word} (h : w &&& 0xFFFFFFFF = pattern) : pattern = w :=
  h.symm.trans (BitVec.and_allOnes (x := w))

theorem rowsH_exact : ∀ row ∈ rowsH, row.Exact := by
  simp only [rowsH, List.forall_mem_cons, List.not_mem_nil, false_imp_iff, implies_true, and_true]
  refine ⟨?shaInit, ?shaBlock, ?shaFinal, ?rmdInit, ?rmdBlock, ?rmdFinal, ?hmacInit, ?hmacFinal⟩
  case shaInit =>
    rintro w _ ⟨hmask, ⟨⟩⟩
    have hcode : (ShaMode.ofCode (fieldAt w 8 2)).code = fieldAt w 8 2 :=
      (code_ofCode _).trans (Nat.mod_eq_of_lt (w.extractLsb' 8 2).isLt)
    rw [encode, hcode, placed_fieldAt]
    exact or_and_of_covers hmask (by decide)
  case hmacInit =>
    rintro w i ⟨hmask, hops⟩
    obtain ⟨alg, halg, rfl⟩ := Option.map_eq_some_iff.1 hops
    rw [encode, algCode_of_ofCode halg, placed_fieldAt, placed_immAt, BitVec.or_assoc, ← BitVec.and_or_distrib_left]
    exact or_and_of_covers hmask (by decide)
  case shaBlock | rmdInit | rmdBlock =>
    rintro w _ ⟨hmask, ⟨⟩⟩
    exact eq_of_fixed_word hmask
  case shaFinal | rmdFinal | hmacFinal =>
    rintro w _ ⟨hmask, ⟨⟩⟩
    rw [encode, placed_immAt]
    exact or_and_of_covers hmask (by decide)

theorem opRows_exact : ∀ row ∈ opRows, row.Exact :=
  forall_mem_opRows rowsM_exact rowsH_exact rowsP_exact

/-- Settles O2: the word was read by a row of the opcode map, whose mask and fields determine all its bits. -/
theorem encodeOfDecode : Obligations.EncodeOfDecode := by
  intro w i h
  obtain ⟨row, hrow, hreads, hwf⟩ := decode_eq_ok_iff.1 h
  exact ⟨opRows_exact row (rowOf_eq_some_iff.1 hrow).1 w i hreads, hwf⟩

/-! ## Illegal words (R85) -/

/-- The further legality conditions of R84 that a word fails: coinciding destinations of `EGCD` or `SQRTMOD`, or an `alg` of
`HMAC_INIT` above 4. -/
def BadFields (w : Word) : Prop :=
  (fieldAt w 0 8 = 0x11 ∧
    (fieldAt w 8 3 = fieldAt w 17 3 ∨ fieldAt w 8 3 = fieldAt w 20 3 ∨ fieldAt w 17 3 = fieldAt w 20 3)) ∨
  (fieldAt w 0 8 = 0x13 ∧ fieldAt w 8 3 = fieldAt w 17 3) ∨
  (fieldAt w 0 8 = 0x40 ∧ 4 < fieldAt w 8 3)

/-- In a word with the row's opcode, the fields name a well-formed command unless a legality condition of R84 fails. -/
def OpRow.ChecksFields (row : OpRow) : Prop :=
  ∀ w, fieldAt w 0 8 = row.opcode.toNat → ((∃ i, row.operands w = some i ∧ i.wellFormed = true) ↔ ¬ BadFields w)

/-- A row whose opcode has no further condition, and whose operands always are a well-formed command. -/
theorem checksFields_of_unconditional {row : OpRow}
    (hop : row.opcode.toNat ≠ 0x11 ∧ row.opcode.toNat ≠ 0x13 ∧ row.opcode.toNat ≠ 0x40)
    (h : ∀ w, ∃ i, row.operands w = some i ∧ i.wellFormed = true) : row.ChecksFields := by
  intro w hw
  obtain ⟨hegcd, hsqrtmod, hhmac⟩ := hop
  have hgood : ¬ BadFields w := by simp [BadFields, hw, hegcd, hsqrtmod, hhmac]
  exact iff_of_true (h w) hgood

theorem rowsM_checkFields : ∀ row ∈ rowsM, row.ChecksFields := by
  simp only [rowsM, List.forall_mem_cons, List.not_mem_nil, false_imp_iff, implies_true, and_true]
  refine ⟨?gcd, ?egcd, ?modinv, ?sqrtmod⟩
  case gcd | modinv => exact checksFields_of_unconditional (by decide) fun w => ⟨_, rfl, rfl⟩
  case egcd =>
    intro w hw
    simp [BadFields, hw, Instr.wellFormed, regAt_eq_regAt_iff, and_assoc]
  case sqrtmod =>
    intro w hw
    simp [BadFields, hw, Instr.wellFormed, regAt_eq_regAt_iff]

theorem rowsH_checkFields : ∀ row ∈ rowsH, row.ChecksFields := by
  simp only [rowsH, List.forall_mem_cons, List.not_mem_nil, false_imp_iff, implies_true, and_true]
  refine ⟨?shaInit, ?shaBlock, ?shaFinal, ?rmdInit, ?rmdBlock, ?rmdFinal, ?hmacInit, ?hmacFinal⟩
  case hmacInit =>
    intro w hw
    cases halg : Alg.ofCode (fieldAt w 8 3) with
    | none => simp [BadFields, hw, halg, algOfCode_eq_none_iff.1 halg]
    | some alg =>
      have hle : ¬ 4 < fieldAt w 8 3 := fun hlt => by simp [algOfCode_eq_none_iff.2 hlt] at halg
      simpa [BadFields, hw, halg, Instr.wellFormed] using hle
  all_goals exact checksFields_of_unconditional (by decide) fun w => ⟨_, rfl, rfl⟩

theorem rowsP_checkFields : ∀ row ∈ rowsP, row.ChecksFields := by
  simp only [rowsP, List.forall_mem_cons, List.not_mem_nil, false_imp_iff, implies_true, and_true]
  refine ⟨?_, ?_, ?_, ?_, ?_, ?_⟩ <;> exact checksFields_of_unconditional (by decide) fun w => ⟨_, rfl, rfl⟩

theorem opRows_checkFields : ∀ row ∈ opRows, row.ChecksFields :=
  forall_mem_opRows rowsM_checkFields rowsH_checkFields rowsP_checkFields

/-- With the word's row at hand, the word is legal when it passes the row's mask test and the row's conditions. -/
theorem exists_decode_iff_of_row {w : Word} {row : OpRow} (hrow : rowOf (w.extractLsb' 0 8) = some row) :
    (∃ i, decode w = .ok i) ↔ w &&& row.mask = row.pattern ∧ ¬ BadFields w := by
  obtain ⟨hmem, hop⟩ := rowOf_eq_some_iff.1 hrow
  rw [← opRows_checkFields row hmem w (congrArg BitVec.toNat hop.symm)]
  simp only [decode_eq_ok_iff, hrow, Option.some.injEq, exists_eq_left', OpRow.Reads, and_assoc, exists_and_left]

/-- A word fails the mask test of the row of its opcode. -/
def FailsMask (w : Word) : Prop := ∃ row ∈ opRows, row.opcode = w.extractLsb' 0 8 ∧ w &&& row.mask ≠ row.pattern

theorem failsMask_iff_of_row {w : Word} {row : OpRow} (hrow : rowOf (w.extractLsb' 0 8) = some row) :
    FailsMask w ↔ w &&& row.mask ≠ row.pattern := by
  simp only [FailsMask, ← and_assoc, ← rowOf_eq_some_iff, hrow, Option.some.injEq, exists_eq_left']

/-- The three ways of R85 for a word to be illegal. -/
theorem illegal_iff {w : Word} :
    (∃ e, decode w = .error e) ↔ (∀ row ∈ opRows, row.opcode ≠ w.extractLsb' 0 8) ∨ FailsMask w ∨ BadFields w := by
  rw [decode_error_iff, ← not_exists, ← rowOf_eq_none_iff]
  cases hrow : rowOf (w.extractLsb' 0 8) with
  | none => simp [decode_eq_ok_iff, hrow]
  | some row =>
    rw [exists_decode_iff_of_row hrow, failsMask_iff_of_row hrow, not_and_or, not_not]
    simp

/-- Settles O4: the decoder's tests are those of R85; the write reaches `CMD`, and the engine's step on an illegal word is the
error completion, which changes `STATUS` alone. -/
theorem illegalWordRule : Obligations.IllegalWordRule := by
  refine ⟨fun w => illegal_iff, fun s w rest hb ht => ?_, fun s e hb ht hd => ?_⟩
  · have hloc : locate ({ s with turns := rest } : State).cfg (byteOffset 2) = some .cmd := locate_cmd s.cfg
    rw [step_of_write ht, memWrite_of_idle hloc hb]
    rfl
  · refine ⟨finish .illegal 0 s, ?_, finish_completed .illegal 0 s, finish_sameButStatus .illegal 0 s, rfl⟩
    rw [step_of_no_turn ht, engineTurn_of_illegal hb hd]
    rfl

/-! ## Words of the spec's examples -/

/-- Settles O3: the decoder, evaluated at each word. -/
theorem workedWordsDecode : Obligations.WorkedWordsDecode :=
  ⟨rfl, rfl, rfl, rfl, rfl, rfl, rfl, rfl, rfl, rfl, rfl⟩

end Sys2Proof

/-! `Egcd` and `ModInverse` (R101, R102, R105): one round of the loop as an equation, and what follows from it by Euclid's
induction. -/

namespace Sys2Proof.Machine

/-! ## One round of the loop (R101) -/

/-- Rounds beyond the second remainder are never needed, so their number does not matter. -/
theorem egcdLoop_rounds : ∀ {n m r0 r1 : Nat} {s0 s1 t0 t1 : Int}, r1 ≤ n → r1 ≤ m →
    egcdLoop n r0 r1 s0 s1 t0 t1 = egcdLoop m r0 r1 s0 s1 t0 t1
  | 0, 0, _, _, _, _, _, _, _, _ => rfl
  | 0, m + 1, _, r1, _, _, _, _, hn, _ => by
    obtain rfl : r1 = 0 := by omega
    simp [egcdLoop]
  | n + 1, 0, _, r1, _, _, _, _, _, hm => by
    obtain rfl : r1 = 0 := by omega
    simp [egcdLoop]
  | n + 1, m + 1, r0, r1, _, _, _, _, hn, hm => by
    rw [egcdLoop, egcdLoop]
    split_ifs with h0
    · rfl
    · have hlt : r0 % r1 < r1 := Nat.mod_lt r0 (Nat.pos_of_ne_zero h0)
      exact egcdLoop_rounds (by omega) (by omega)

/-- The triple with its coefficients applied to other rows than the unit rows. -/
def Bezout.over (e : Bezout) (s0 s1 t0 t1 : Int) : Bezout := ⟨e.g, e.s * s0 + e.t * s1, e.s * t0 + e.t * t1⟩

/-- The loop is linear in the rows it starts from. -/
theorem egcdLoop_over : ∀ (n r0 r1 : Nat) (s0 s1 t0 t1 : Int),
    egcdLoop n r0 r1 s0 s1 t0 t1 = (egcdLoop n r0 r1 1 0 0 1).over s0 s1 t0 t1
  | 0, _, _, _, _, _, _ => by simp [egcdLoop, Bezout.over]
  | n + 1, r0, r1, s0, s1, t0, t1 => by
    rw [egcdLoop, egcdLoop]
    split_ifs with h0
    · simp [Bezout.over]
    · dsimp only
      rw [egcdLoop_over n, egcdLoop_over n _ _ 0]
      simp only [Bezout.over, Bezout.mk.injEq, true_and]
      constructor <;> ring

@[simp] theorem egcd_zero_right (x : Nat) : egcd x 0 = ⟨x, 1, 0⟩ := rfl

/-- One round of the loop: from the triple of the next pair of remainders. -/
theorem egcd_of_pos {x y : Nat} (hy : 0 < y) :
    egcd x y =
      ⟨(egcd y (x % y)).g, (egcd y (x % y)).t, (egcd y (x % y)).s - (x / y : Nat) * (egcd y (x % y)).t⟩ := by
  have hlt : x % y < y := Nat.mod_lt x hy
  have hround : egcd x y = (egcd y (x % y)).over 0 1 1 (-(x / y : Nat)) := by
    unfold egcd
    rw [egcdLoop, if_neg hy.ne', egcdLoop_over, egcdLoop_rounds (by omega) (by omega : x % y ≤ x % y + 1)]
    simp
  rw [hround]
  simp only [Bezout.over, Bezout.mk.injEq, true_and]
  constructor <;> ring

theorem egcd_g_of_pos {x y : Nat} (hy : 0 < y) : (egcd x y).g = (egcd y (x % y)).g := by
  rw [egcd_of_pos hy]

theorem egcd_s_of_pos {x y : Nat} (hy : 0 < y) : (egcd x y).s = (egcd y (x % y)).t := by
  rw [egcd_of_pos hy]

theorem egcd_t_of_pos {x y : Nat} (hy : 0 < y) :
    (egcd x y).t = (egcd y (x % y)).s - (x / y : Nat) * (egcd y (x % y)).t := by
  rw [egcd_of_pos hy]

/-- A multiple of `y`, and so 0 and `y` itself, ends the loop after one round. -/
theorem egcd_of_mod_eq_zero {x y : Nat} (hy : 0 < y) (h : x % y = 0) : egcd x y = ⟨y, 0, 1⟩ := by
  simp [egcd_of_pos hy, h]

/-- Euclid's induction, along the rounds of the loop. -/
theorem egcd_induction {P : Nat → Nat → Prop} (hzero : ∀ x, P x 0) (hpos : ∀ x y, 0 < y → P y (x % y) → P x y)
    (x y : Nat) : P x y :=
  Nat.gcd.induction (P := fun y x => P x y) y x hzero fun y x hy ih => hpos x y hy ih

@[simp] theorem egcd_g (x y : Nat) : (egcd x y).g = Nat.gcd x y := by
  induction x, y using egcd_induction with
  | hzero x => simp
  | hpos x y hy ih => rw [egcd_g_of_pos hy, ih, Nat.gcd_comm x y, Nat.gcd_comm y, ← Nat.gcd_rec]

theorem egcd_bezout (x y : Nat) : ((Nat.gcd x y : Nat) : Int) = (egcd x y).s * x + (egcd x y).t * y := by
  induction x, y using egcd_induction with
  | hzero x => simp
  | hpos x y hy ih =>
    have hdiv : (x : Int) = y * (x / y : Nat) + (x % y : Nat) := by exact_mod_cast (Nat.div_add_mod x y).symm
    rw [← egcd_g, egcd_g_of_pos hy, egcd_g, ih, egcd_s_of_pos hy, egcd_t_of_pos hy]
    linear_combination (-(egcd y (x % y)).t) * hdiv

/-- Settles O22: the equation of one round, and Euclid's induction on it. -/
theorem egcdContract : Obligations.EgcdContract := by
  refine ⟨fun x y => ⟨egcd_g x y, ?_⟩, egcd_zero_right, fun y hy => ?_, fun x hx => ?_, fun x y hy => egcd_of_pos hy⟩
  · rw [egcd_g]
    exact egcd_bezout x y
  · exact egcd_of_mod_eq_zero hy (Nat.zero_mod y)
  · exact egcd_of_mod_eq_zero hx (Nat.mod_self x)

/-! ## The size of the coefficients (R102) -/

/-- The pair is minimal: a round adds the quotient times the one bound to the other. -/
theorem egcd_minimal {x y : Nat} : 0 < x → 0 < y → x ≠ y →
    2 * (egcd x y).g * (egcd x y).s.natAbs ≤ y ∧ 2 * (egcd x y).g * (egcd x y).t.natAbs ≤ x := by
  induction x, y using egcd_induction with
  | hzero x => exact fun _ h => absurd h (lt_irrefl 0)
  | hpos x y hy ih =>
    intro hx _ hne
    have hdiv : y * (x / y) + x % y = x := Nat.div_add_mod x y
    rcases Nat.eq_zero_or_pos (x % y) with h0 | hr
    · obtain ⟨k, rfl⟩ := Nat.dvd_of_mod_eq_zero h0
      have hk : 2 ≤ k := by
        rcases k with - | - | k
        · simp at hx
        · simp at hne
        · omega
      rw [egcd_of_mod_eq_zero hy h0]
      exact ⟨by simp, by simpa [mul_comm] using Nat.mul_le_mul_left y hk⟩
    · obtain ⟨hs, ht⟩ := ih hy hr (Nat.mod_lt x hy).ne'
      rw [egcd_g_of_pos hy, egcd_s_of_pos hy, egcd_t_of_pos hy]
      refine ⟨ht, ?_⟩
      set e := egcd y (x % y)
      calc 2 * e.g * (e.s - (x / y : Nat) * e.t).natAbs
          ≤ 2 * e.g * (e.s.natAbs + x / y * e.t.natAbs) := by
            refine Nat.mul_le_mul_left _ ((Int.natAbs_sub_le _ _).trans_eq ?_)
            rw [Int.natAbs_mul, Int.natAbs_natCast]
        _ = 2 * e.g * e.s.natAbs + 2 * e.g * e.t.natAbs * (x / y) := by ring
        _ ≤ x % y + y * (x / y) := Nat.add_le_add hs (Nat.mul_le_mul_right _ ht)
        _ = x := by omega

/-- Where the pair is not minimal, one coefficient is 0 and the other is 1. -/
theorem egcd_degenerate {x y : Nat} (h : ¬ (0 < x ∧ 0 < y ∧ x ≠ y)) :
    (egcd x y).s.natAbs ≤ 1 ∧ (egcd x y).t.natAbs ≤ 1 := by
  rcases Nat.eq_zero_or_pos y with rfl | hy
  · simp
  · have hmod : x % y = 0 := by
      rcases Nat.eq_zero_or_pos x with rfl | hx
      · exact Nat.zero_mod y
      · obtain rfl : x = y := by
          by_contra hne
          exact h ⟨hx, hy, hne⟩
        exact Nat.mod_self x
    simp [egcd_of_mod_eq_zero hy hmod]

theorem natAbs_lt_half {w g b : Nat} {z : Int} (hw : 2 ≤ w) (hg : 0 < g) (hle : 2 * g * z.natAbs ≤ b)
    (hb : b < 2 ^ w) : z.natAbs < 2 ^ (w - 1) := by
  have hpow : 2 ^ w = 2 * 2 ^ (w - 1) := by rw [← pow_succ', Nat.sub_add_cancel (by omega)]
  have h1 : 2 * 1 * z.natAbs ≤ 2 * g * z.natAbs := by gcongr; exact hg
  omega

theorem egcd_natAbs_lt {w x y : Nat} (hw : 2 ≤ w) (hx : x < 2 ^ w) (hy : y < 2 ^ w) :
    (egcd x y).s.natAbs < 2 ^ (w - 1) ∧ (egcd x y).t.natAbs < 2 ^ (w - 1) := by
  have hpow : 1 < 2 ^ (w - 1) := Nat.one_lt_two_pow (by omega)
  by_cases h : 0 < x ∧ 0 < y ∧ x ≠ y
  · obtain ⟨hx0, hy0, hne⟩ := h
    obtain ⟨hs, ht⟩ := egcd_minimal hx0 hy0 hne
    have hg : 0 < (egcd x y).g := by
      rw [egcd_g]
      exact Nat.gcd_pos_of_pos_left y hx0
    exact ⟨natAbs_lt_half hw hg hs hy, natAbs_lt_half hw hg ht hx⟩
  · obtain ⟨hs, ht⟩ := egcd_degenerate h
    omega

/-- Settles O23: the minimal pair fits in half the range, and so do 0 and 1. -/
theorem bezoutBounds : Obligations.BezoutBounds := by
  intro c x y hx hy
  obtain ⟨hs, ht⟩ := egcd_natAbs_lt (by simp [Config.opw, Config.nw]; omega) hx hy
  have hpow : ((2 ^ (c.opw - 1) : Nat) : Int) = 2 ^ (c.opw - 1) := by push_cast; rfl
  rw [← hpow]
  exact ⟨egcd_g_lt hx hy, by omega, by omega, by omega, by omega, fun hx0 hy0 hne => egcd_minimal hx0 hy0 hne⟩

/-! ## `ModInverse` (R105) -/

section

variable {x n y : Nat}

theorem modInverse_eq_none_iff : modInverse x n = none ↔ Nat.gcd (x % n) n ≠ 1 := by
  simp [modInverse]

theorem coprime_of_inverse (h : x * y % n = 1 % n) : Nat.Coprime x n := by
  have hmul : Nat.gcd (x * y) n = Nat.gcd 1 n := Nat.ModEq.gcd_eq h
  exact Nat.Coprime.coprime_mul_right (hmul.trans (Nat.gcd_one_left n))

/-- Two inverses in `[0, n)` are equal. -/
theorem inverse_unique {y' : Nat} (hy : y < n) (hy' : y' < n) (h : x * y % n = 1 % n) (h' : x * y' % n = 1 % n) : y = y' :=
  Nat.ModEq.eq_of_lt_of_lt (Nat.ModEq.cancel_left_of_coprime (coprime_of_inverse h).symm (h.trans h'.symm)) hy hy'

variable (hn : 1 ≤ n)
include hn

/-- The coefficient that `Egcd` answers is an inverse. -/
theorem inverse_of_modInverse (h : modInverse x n = some y) : x * y % n = 1 % n := by
  unfold modInverse at h
  dsimp only at h
  split_ifs at h with hg
  cases h
  have hbez := egcd_bezout (x % n) n
  rw [egcd_g] at hg
  rw [hg] at hbez
  refine (ZMod.natCast_eq_natCast_iff' _ _ n).1 ?_
  have hres : ((residue (egcd (x % n) n).s n : Nat) : ZMod n) = ((egcd (x % n) n).s : ZMod n) := by
    rw [← Int.cast_natCast, residue_cast _ hn, ZMod.intCast_mod]
  have hcast := congrArg (Int.cast : Int → ZMod n) hbez
  push_cast [ZMod.natCast_mod, ZMod.natCast_self] at hcast
  rw [Nat.cast_mul, hres, Nat.cast_one]
  linear_combination -hcast

theorem modInverse_eq_some_iff : modInverse x n = some y ↔ y < n ∧ x * y % n = 1 % n := by
  refine ⟨fun h => ⟨modInverse_lt hn h, inverse_of_modInverse hn h⟩, fun ⟨hy, hxy⟩ => ?_⟩
  have hcop : Nat.gcd (x % n) n = 1 := (Nat.mod_modEq x n).gcd_eq.trans (coprime_of_inverse hxy)
  obtain ⟨y', h'⟩ := Option.ne_none_iff_exists'.1 fun h => modInverse_eq_none_iff.1 h hcop
  rw [h', inverse_unique hy (modInverse_lt hn h') hxy (inverse_of_modInverse hn h')]

end

/-- Settles O26: the identity of `Egcd`, and uniqueness because an invertible factor cancels. -/
theorem modInverseContract : Obligations.ModInverseContract :=
  fun _ _ hn => ⟨modInverse_eq_none_iff, fun _ => modInverse_eq_some_iff hn⟩

end Sys2Proof.Machine

/-! Residues modulo an odd prime as elements of the field of integers modulo it, and the Euler criterion (R107). -/

namespace Sys2Proof.Machine

/-! ## Residues and the field -/

/-- Two residues are equal when they are equal in the field. -/
theorem eq_iff_cast_eq_of_lt {p x y : Nat} (hx : x < p) (hy : y < p) : x = y ↔ (x : ZMod p) = y := by
  rw [ZMod.natCast_eq_natCast_iff', Nat.mod_eq_of_lt hx, Nat.mod_eq_of_lt hy]

@[simp] theorem cast_mulMod (p x y : Nat) : ((x * y % p : Nat) : ZMod p) = x * y := by
  rw [ZMod.natCast_mod, Nat.cast_mul]

theorem cast_powMod {p : Nat} (hp : 0 < p) (a e : Nat) : (powMod a e p : ZMod p) = a ^ e := by
  rw [powMod_eq a e hp, ZMod.natCast_mod, Nat.cast_pow]

/-- `p - 1` is the residue of -1. -/
theorem cast_pred {p : Nat} (hp : 0 < p) : ((p - 1 : Nat) : ZMod p) = -1 := by
  rw [Nat.cast_sub hp, ZMod.natCast_self, Nat.cast_one, zero_sub]

theorem cast_ne_zero_iff {p a : Nat} : (a : ZMod p) ≠ 0 ↔ a % p ≠ 0 := by
  rw [Ne, ZMod.natCast_eq_zero_iff, Nat.dvd_iff_mod_eq_zero]

/-- Being a square in the field, written with remainders. -/
theorem isSquare_cast_iff {p : Nat} (hp : 0 < p) (a : Nat) :
    IsSquare (a : ZMod p) ↔ ∃ x : Nat, x * x % p = a % p := by
  have : NeZero p := ⟨hp.ne'⟩
  constructor
  · rintro ⟨y, hy⟩
    refine ⟨y.val, (ZMod.natCast_eq_natCast_iff' _ _ p).1 ?_⟩
    rw [Nat.cast_mul, ZMod.natCast_val, ZMod.cast_id, hy]
  · rintro ⟨x, hx⟩
    refine ⟨x, ?_⟩
    rw [← Nat.cast_mul]
    exact (ZMod.natCast_eq_natCast_iff' _ _ p).2 hx.symm

/-! ## The Euler criterion (R107) -/

section

variable {p : Nat} (hp : Nat.Prime p) (hodd : p ≠ 2)
include hp hodd

theorem three_le_of_odd_prime : 3 ≤ p := by
  have := hp.two_le
  omega

theorem odd_of_odd_prime : p % 2 = 1 := hp.eq_two_or_odd.resolve_left hodd

theorem half_pred_of_odd_prime : (p - 1) / 2 = p / 2 := by
  have := odd_of_odd_prime hp hodd
  omega

theorem powMod_half_eq_one_iff (n : Nat) : powMod n ((p - 1) / 2) p = 1 ↔ (n : ZMod p) ^ (p / 2) = 1 := by
  have h1 := hp.one_lt
  rw [eq_iff_cast_eq_of_lt (powMod_lt _ _ hp.pos) h1, cast_powMod hp.pos, half_pred_of_odd_prime hp hodd, Nat.cast_one]

theorem powMod_half_eq_pred_iff (n : Nat) : powMod n ((p - 1) / 2) p = p - 1 ↔ (n : ZMod p) ^ (p / 2) = -1 := by
  rw [eq_iff_cast_eq_of_lt (powMod_lt _ _ hp.pos) (Nat.sub_lt hp.pos one_pos), cast_powMod hp.pos,
    half_pred_of_odd_prime hp hodd, cast_pred hp.pos]

theorem powMod_half_of_residue {n : Nat} (hn : n % p ≠ 0) (hres : ∃ x, x * x % p = n % p) :
    powMod n ((p - 1) / 2) p = 1 := by
  have : Fact p.Prime := ⟨hp⟩
  rw [powMod_half_eq_one_iff hp hodd, ← ZMod.euler_criterion p (cast_ne_zero_iff.2 hn)]
  exact (isSquare_cast_iff hp.pos n).2 hres

theorem powMod_half_of_nonResidue {n : Nat} (hn : n % p ≠ 0) (hres : ¬ ∃ x, x * x % p = n % p) :
    powMod n ((p - 1) / 2) p = p - 1 := by
  have : Fact p.Prime := ⟨hp⟩
  have hn' : (n : ZMod p) ≠ 0 := cast_ne_zero_iff.2 hn
  rw [powMod_half_eq_pred_iff hp hodd]
  refine (ZMod.pow_div_two_eq_neg_one_or_one p hn').resolve_left fun h => hres ?_
  exact (isSquare_cast_iff hp.pos n).1 ((ZMod.euler_criterion p hn').2 h)

/-- The test of R109 and R110: the power is `p - 1` exactly for a non-residue. -/
theorem powMod_half_eq_pred_iff_nonResidue {n : Nat} (hn : n % p ≠ 0) :
    powMod n ((p - 1) / 2) p = p - 1 ↔ ¬ ∃ x, x * x % p = n % p := by
  refine ⟨fun h hres => ?_, powMod_half_of_nonResidue hp hodd hn⟩
  have h3 := three_le_of_odd_prime hp hodd
  have h1 := powMod_half_of_residue hp hodd hn hres
  omega

end

/-- Settles O28: `powMod_eq`, and the Euler criterion of the field of integers modulo `p`. -/
theorem powModContract : Obligations.PowModContract := by
  refine ⟨fun a e m hm => powMod_eq a e hm, fun n p hp hodd hn => ?_⟩
  refine ⟨?_, powMod_half_of_residue hp hodd hn, powMod_half_of_nonResidue hp hodd hn⟩
  by_cases hres : ∃ x, x * x % p = n % p
  · exact .inl (powMod_half_of_residue hp hodd hn hres)
  · exact .inr (powMod_half_of_nonResidue hp hodd hn hres)

end Sys2Proof.Machine

/-! `TonelliShanks` (R110): the invariant of its loop, and that it holds a root when it ends. -/

namespace Sys2Proof.Machine

/-! ## The search for the order of `t` -/

/-- The search stops at the first exponent it reaches whose power is 1; if there is one before the bound, it stops by then. -/
theorem leastOrder_spec {p : Nat} (hp : 1 < p) {y : ZMod p} : ∀ {k i j x : Nat}, x < p → (x : ZMod p) = y ^ 2 ^ i →
    i ≤ j → j < i + k → y ^ 2 ^ j = 1 → y ^ 2 ^ (i - 1) ≠ 1 →
    ∃ l, leastOrder p k i x = some l ∧ i ≤ l ∧ l ≤ j ∧ y ^ 2 ^ l = 1 ∧ y ^ 2 ^ (l - 1) ≠ 1
  | 0, i, j, x, _, _, hij, hj, _, _ => absurd hj (by omega)
  | k + 1, i, j, x, hx, hxy, hij, hj, h1, hprev => by
    have hone : x = 1 ↔ y ^ 2 ^ i = 1 := by rw [eq_iff_cast_eq_of_lt hx hp, hxy, Nat.cast_one]
    rw [leastOrder]
    split_ifs with hx1
    · exact ⟨i, rfl, le_rfl, hij, hone.1 hx1, hprev⟩
    · have hne : y ^ 2 ^ i ≠ 1 := fun h => hx1 (hone.2 h)
      have hij' : i ≠ j := by
        rintro rfl
        exact hne h1
      have hsq : ((x * x % p : Nat) : ZMod p) = y ^ 2 ^ (i + 1) := by
        rw [cast_mulMod, hxy, ← pow_add, pow_succ, mul_two]
      obtain ⟨l, hl, hil, hlj, hl1, hlprev⟩ :=
        leastOrder_spec (k := k) hp (Nat.mod_lt _ (by omega)) hsq (by omega : i + 1 ≤ j) (by omega) h1 hne
      exact ⟨l, hl, by omega, hlj, hl1, hlprev⟩

/-- A number other than 1 whose power to `2^(m-1)` is 1 has an order `2^i` with `0 < i < m`, and the search finds it; the power
before it is -1. -/
theorem leastOrder_of_pow_eq_one {p m t : Nat} (hp : Nat.Prime p) (ht : (t : ZMod p) ≠ 1)
    (hpow : (t : ZMod p) ^ 2 ^ (m - 1) = 1) :
    ∃ i, leastOrder p (m - 1) 1 (t * t % p) = some i ∧ 1 ≤ i ∧ i < m ∧ (t : ZMod p) ^ 2 ^ (i - 1) = -1 := by
  have : Fact p.Prime := ⟨hp⟩
  have hm : 1 ≤ m - 1 := by
    by_contra h
    rw [show m - 1 = 0 by omega] at hpow
    exact ht (by simpa using hpow)
  have hsq : ((t * t % p : Nat) : ZMod p) = (t : ZMod p) ^ 2 ^ 1 := by rw [cast_mulMod, pow_one, sq]
  obtain ⟨i, hi, h1, him, hi1, hprev⟩ :=
    leastOrder_spec (k := m - 1) hp.one_lt (Nat.mod_lt _ hp.pos) hsq hm (by omega) hpow (by simpa using ht)
  refine ⟨i, hi, h1, by omega, (sq_eq_one_iff.1 ?_).resolve_left hprev⟩
  rw [← pow_mul, ← pow_succ, Nat.sub_add_cancel h1, hi1]

/-! ## The loop -/

/-- What holds at the head of the loop of R110, in the field: `c` has order `2^m`, the order of `t` divides `2^(m-1)`, and `r`
is a root of `a * t`. -/
structure ShanksInv (p a m c t r : Nat) : Prop where
  pos : 1 ≤ m
  lt : t < p
  c_pow : (c : ZMod p) ^ 2 ^ (m - 1) = -1
  t_pow : (t : ZMod p) ^ 2 ^ (m - 1) = 1
  root : (r : ZMod p) * r = a * t

/-- A round of the loop keeps the invariant with the smaller `m` that the search found. -/
theorem ShanksInv.round {p a m c t r i : Nat} (hp : 0 < p) (h : ShanksInv p a m c t r) (hi : 1 ≤ i) (him : i < m)
    (ht : (t : ZMod p) ^ 2 ^ (i - 1) = -1) {b : Nat} (hb : b = powMod c (2 ^ (m - i - 1)) p) :
    ShanksInv p a i (b * b % p) (t * (b * b % p) % p) (r * b % p) := by
  have hbb : ((b * b % p : Nat) : ZMod p) = (c : ZMod p) ^ 2 ^ (m - i) := by
    rw [cast_mulMod, hb, cast_powMod hp, ← pow_add, ← mul_two, ← pow_succ, Nat.sub_add_cancel (by omega)]
  have hpow : ((b * b % p : Nat) : ZMod p) ^ 2 ^ (i - 1) = -1 := by
    rw [hbb, ← pow_mul, ← pow_add, show m - i + (i - 1) = m - 1 by omega, h.c_pow]
  constructor
  case pos => exact hi
  case lt => exact Nat.mod_lt _ hp
  case c_pow => exact hpow
  case t_pow => rw [cast_mulMod, mul_pow, ht, hpow, neg_one_mul, neg_neg]
  case root =>
    calc ((r * b % p : Nat) : ZMod p) * (r * b % p : Nat)
        = r * r * (b * b) := by rw [cast_mulMod]; ring
      _ = a * (t * (b * b % p) % p : Nat) := by rw [h.root, cast_mulMod, cast_mulMod]; ring

/-- From the invariant the loop ends with a root, within `m` rounds: `m` falls in each. -/
theorem shanksLoop_spec {p a : Nat} (hp : Nat.Prime p) : ∀ {n m c t r : Nat}, m ≤ n → ShanksInv p a m c t r →
    ∃ root, shanksLoop p n m c t r = some root ∧ (root : ZMod p) * root = a
  | 0, m, c, t, r, hmn, h => absurd h.pos (by omega)
  | n + 1, m, c, t, r, hmn, h => by
    have hone : t = 1 ↔ (t : ZMod p) = 1 := by rw [eq_iff_cast_eq_of_lt h.lt hp.one_lt, Nat.cast_one]
    rw [shanksLoop]
    split_ifs with ht
    · exact ⟨r, rfl, by rw [h.root, hone.1 ht, mul_one]⟩
    · obtain ⟨i, hi, h1, him, hprev⟩ := leastOrder_of_pow_eq_one hp (fun h1 => ht (hone.2 h1)) h.t_pow
      rw [hi]
      exact shanksLoop_spec hp (by omega) (h.round hp.pos h1 him hprev rfl)

/-! ## From a non-residue to a root -/

section

variable {p : Nat} (hp : Nat.Prime p) (hodd : p ≠ 2)
include hp hodd

/-- `p - 1` is the odd part times at least one 2. -/
theorem oddPart_of_odd_prime :
    (oddPart p).1 * 2 ^ (oddPart p).2 = p - 1 ∧ (oddPart p).1 % 2 = 1 ∧ 1 ≤ (oddPart p).2 := by
  have h3 := three_le_of_odd_prime hp hodd
  have hpodd := odd_of_odd_prime hp hodd
  obtain ⟨hmul, hodd'⟩ := splitTwos_eq (p - 1) (p - 1) (by omega) le_rfl
  refine ⟨hmul, hodd', Nat.one_le_iff_ne_zero.2 fun h0 => ?_⟩
  rw [show (splitTwos (p - 1) (p - 1)).2 = 0 from h0, pow_zero, mul_one] at hmul
  omega

/-- The odd part times half the power of two is half of `p - 1`. -/
theorem pow_oddPart_pow {y : ZMod p} : (y ^ (oddPart p).1) ^ 2 ^ ((oddPart p).2 - 1) = y ^ (p / 2) := by
  obtain ⟨hmul, -, hs⟩ := oddPart_of_odd_prime hp hodd
  rw [← Nat.sub_add_cancel hs, pow_succ, ← mul_assoc] at hmul
  rw [← pow_mul]
  congr 1
  omega

theorem isNonResidue_iff_pow (z : Nat) : isNonResidue p z = true ↔ (z : ZMod p) ^ (p / 2) = -1 := by
  rw [isNonResidue, decide_eq_true_eq, powMod_half_eq_pred_iff hp hodd]

/-- The values with which R110 enters the loop meet its invariant. -/
theorem shanksInv_start {a z : Nat} (ha : (a : ZMod p) ^ (p / 2) = 1) (hz : isNonResidue p z = true) :
    ShanksInv p a (oddPart p).2 (powMod z (oddPart p).1 p) (powMod a (oddPart p).1 p)
      (powMod a (((oddPart p).1 + 1) / 2) p) := by
  obtain ⟨-, hq, hs⟩ := oddPart_of_odd_prime hp hodd
  constructor
  case pos => exact hs
  case lt => exact powMod_lt _ _ hp.pos
  case c_pow => rw [cast_powMod hp.pos, pow_oddPart_pow hp hodd, (isNonResidue_iff_pow hp hodd z).1 hz]
  case t_pow => rw [cast_powMod hp.pos, pow_oddPart_pow hp hodd, ha]
  case root =>
    rw [cast_powMod hp.pos, cast_powMod hp.pos, ← pow_add, ← pow_succ']
    congr 1
    omega

theorem tonelliShanks_root {a z : Nat} (ha : 0 < a) (hap : a < p) (hres : ∃ x, x * x % p = a)
    (hz : isNonResidue p z = true) :
    ∃ r, tonelliShanks a p z = some r ∧ 1 ≤ r ∧ r ≤ p - 1 ∧ r * r % p = a := by
  have hmod : a % p = a := Nat.mod_eq_of_lt hap
  have hpow : (a : ZMod p) ^ (p / 2) = 1 :=
    (powMod_half_eq_one_iff hp hodd a).1 (powMod_half_of_residue hp hodd (by omega) (by rwa [hmod]))
  obtain ⟨r, hr, hroot⟩ := shanksLoop_spec hp le_rfl (shanksInv_start hp hodd hpow hz)
  have hlt : r < p := tonelliShanks_lt hp.pos hr
  have hsq : r * r % p = a := by
    rw [eq_iff_cast_eq_of_lt (Nat.mod_lt _ hp.pos) hap, cast_mulMod, hroot]
  have hpos : r ≠ 0 := by
    rintro rfl
    simp at hsq
    omega
  exact ⟨r, hr, by omega, by omega, hsq⟩

end

/-- Settles O31: the loop's invariant, from the Euler criterion at entry to a root of `a` at exit. -/
theorem tonelliShanksFindsRoot : Obligations.TonelliShanksFindsRoot :=
  fun _ _ _ hp hodd ha hap hres _ _ hz => tonelliShanks_root hp hodd ha hap hres hz

end Sys2Proof.Machine

/-! The commands `GCD`, `EGCD` and `MODINV` (R103, R104, R106): what their words decode to, the result, and the frame. -/

namespace Sys2Proof.Machine

/-! ## The word of a command -/

/-- A command's word decodes to that command alone, and only when the command is well-formed. -/
theorem eq_of_decode_encode {i j : Instr} (h : decode (encode i) = .ok j) : j = i ∧ i.wellFormed = true := by
  obtain ⟨row, hrow, ⟨-, hops⟩, hwf⟩ := decode_eq_ok_iff.1 h
  obtain ⟨row', hrow', -, hops'⟩ := reads_encode i
  rw [opcodeByte, hrow', Option.some.injEq] at hrow
  subst hrow
  obtain rfl : i = j := Option.some.inj (hops'.symm.trans hops)
  exact ⟨rfl, hwf⟩

/-- The word of a command with coinciding destinations is illegal (R85). -/
theorem decode_encode_of_not_wellFormed {i : Instr} (h : i.wellFormed ≠ true) : ∃ e, decode (encode i) = .error e :=
  decode_error_iff.2 fun _ hj => h (eq_of_decode_encode hj).2

theorem egcd_wellFormed_iff {rd rc re ra rb : RegIdx} :
    (Instr.egcd rd rc re ra rb).wellFormed = true ↔ rd ≠ rc ∧ rd ≠ re ∧ rc ≠ re := by
  simp [Instr.wellFormed, and_assoc]

/-! ## What the unit's writes leave unchanged (R100) -/

section

variable {s t : State}

theorem sameOutsideModArith_refl (s : State) : SameOutsideModArith s s := finish_sameButStatus .ok 0 s |>.2

theorem sameOutsideModArith_finish {e : ErrCode} {k : BitVec 2} :
    SameOutsideModArith s (finish e k t) ↔ SameOutsideModArith s t := Iff.rfl

theorem sameOutsideModArith_writeReg {i : RegIdx} {v : Nat} :
    SameOutsideModArith s (writeReg i v t) ↔ SameOutsideModArith s t := Iff.rfl

/-- A completion with one register written changes only that register and `STATUS`. -/
theorem sameOutsideModArith_finish_writeReg (e : ErrCode) (k : BitVec 2) (i : RegIdx) (v : Nat) (s : State) :
    SameOutsideModArith s (finish e k (writeReg i v s)) :=
  sameOutsideModArith_finish.2 (sameOutsideModArith_writeReg.2 (sameOutsideModArith_refl s))

theorem sameRegsBut_writeReg (i : RegIdx) (v : Nat) (s : State) : SameRegsBut i s (writeReg i v s) :=
  fun _ hk => readReg_writeReg_ne hk v s

end

/-! ## `GCD` (R103) -/

/-- Settles O24: the loop's first component is the greatest common divisor. -/
theorem gcdRule : Obligations.GcdRule := by
  intro rd ra rb
  refine ⟨decodeOfEncode (.gcd rd ra rb) rfl, fun s => ?_⟩
  have hres : readReg (writeReg rd (egcd (readReg s ra) (readReg s rb)).g s) rd = Nat.gcd s.r[ra] s.r[rb] :=
    (readReg_writeReg_same rd _ s).trans (egcd_g _ _)
  exact ⟨finish .ok 0 (writeReg rd (egcd (readReg s ra) (readReg s rb)).g s), rfl, finish_completed .ok 0 _, hres,
    sameRegsBut_writeReg rd _ s, sameOutsideModArith_finish_writeReg _ _ rd _ s, rfl⟩

/-! ## `EGCD` (R104) -/

/-- Bezout's identity survives storing the coefficients modulo `m`, when the divisor is below `m`. -/
theorem bezout_mod {m x y c d : Nat} (hc : (c : Int) = (egcd x y).s % m) (hd : (d : Int) = (egcd x y).t % m)
    (hg : Nat.gcd x y < m) : (c * x + d * y) % m = Nat.gcd x y := by
  have hc' : (c : Int) ≡ (egcd x y).s [ZMOD m] := hc ▸ Int.mod_modEq _ _
  have hd' : (d : Int) ≡ (egcd x y).t [ZMOD m] := hd ▸ Int.mod_modEq _ _
  have hsum : ((c * x + d * y : Nat) : Int) ≡ (Nat.gcd x y : Nat) [ZMOD m] := by
    rw [egcd_bezout]
    push_cast
    exact (hc'.mul_right x).add (hd'.mul_right y)
  exact Eq.trans (Int.natCast_modEq_iff.1 hsum) (Nat.mod_eq_of_lt hg)

/-- The state in which `EGCD` has written its three destinations. -/
def writeEgcd (rd rc re ra rb : RegIdx) (s : State) : State :=
  let e := egcd (readReg s ra) (readReg s rb)
  writeReg re (residue e.t (2 ^ s.cfg.opw)) (writeReg rc (residue e.s (2 ^ s.cfg.opw)) (writeReg rd e.g s))

section

variable {rd rc re : RegIdx} (ra rb : RegIdx) (s : State)

theorem exec_egcd_of_distinct (h : rd ≠ rc ∧ rd ≠ re ∧ rc ≠ re) :
    exec (.egcd rd rc re ra rb) s = complete 0 (writeEgcd rd rc re ra rb s) :=
  if_pos (egcd_wellFormed_iff.2 h)

theorem exec_egcd_of_coinciding (h : ¬ (rd ≠ rc ∧ rd ≠ re ∧ rc ≠ re)) :
    exec (.egcd rd rc re ra rb) s = raiseError .illegal s :=
  if_neg (mt egcd_wellFormed_iff.1 h)

theorem readReg_writeEgcd_rd (h : rd ≠ rc) (h' : rd ≠ re) :
    readReg (writeEgcd rd rc re ra rb s) rd = Nat.gcd (readReg s ra) (readReg s rb) := by
  rw [writeEgcd, readReg_writeReg_ne h', readReg_writeReg_ne h, readReg_writeReg_same, egcd_g]

theorem readReg_writeEgcd_rc (h : rc ≠ re) :
    (readReg (writeEgcd rd rc re ra rb s) rc : Int) = (egcd (readReg s ra) (readReg s rb)).s % (2 ^ s.cfg.opw : Nat) := by
  rw [writeEgcd, readReg_writeReg_ne h, readReg_writeReg_same, residue_cast _ (Nat.two_pow_pos _)]

theorem readReg_writeEgcd_re :
    (readReg (writeEgcd rd rc re ra rb s) re : Int) = (egcd (readReg s ra) (readReg s rb)).t % (2 ^ s.cfg.opw : Nat) := by
  rw [writeEgcd, readReg_writeReg_same, residue_cast _ (Nat.two_pow_pos _)]

theorem readReg_writeEgcd_other {k : RegIdx} (h : k ≠ rd) (h' : k ≠ rc) (h'' : k ≠ re) :
    readReg (writeEgcd rd rc re ra rb s) k = readReg s k := by
  rw [writeEgcd, readReg_writeReg_ne h'', readReg_writeReg_ne h', readReg_writeReg_ne h]

theorem sameOutsideModArith_writeEgcd : SameOutsideModArith s (writeEgcd rd rc re ra rb s) := by
  rw [writeEgcd, sameOutsideModArith_writeReg, sameOutsideModArith_writeReg, sameOutsideModArith_writeReg]
  exact sameOutsideModArith_refl s

/-- The stored values satisfy Bezout's identity modulo `2^OPW` when the operands fit. -/
theorem bezout_writeEgcd (h : rd ≠ rc ∧ rd ≠ re ∧ rc ≠ re) (hfit : s.WidthsFit) :
    let t := writeEgcd rd rc re ra rb s
    (readReg t rc * readReg s ra + readReg t re * readReg s rb) % 2 ^ s.cfg.opw = readReg t rd := by
  obtain ⟨hdc, hde, hce⟩ := h
  have hg : Nat.gcd (readReg s ra) (readReg s rb) < 2 ^ s.cfg.opw := by
    rw [← egcd_g]
    exact egcd_g_lt (hfit.1 ra) (hfit.1 rb)
  dsimp only
  rw [readReg_writeEgcd_rd ra rb s hdc hde]
  exact bezout_mod (readReg_writeEgcd_rc ra rb s hce) (readReg_writeEgcd_re ra rb s) hg

end

/-- Settles O25: three writes to different registers, with Bezout's identity modulo `2^OPW`; coinciding destinations fail the
well-formedness check of the decoder and of the command. -/
theorem egcdRule : Obligations.EgcdRule := by
  intro rd rc re ra rb
  refine ⟨fun hdist => ⟨decodeOfEncode (.egcd rd rc re ra rb) (egcd_wellFormed_iff.2 hdist), fun s => ?_⟩,
    fun hcoin => ⟨?_, fun s => ?_⟩⟩
  · obtain ⟨hdc, hde, hce⟩ := id hdist
    exact ⟨finish .ok 0 (writeEgcd rd rc re ra rb s), exec_egcd_of_distinct ra rb s hdist, finish_completed .ok 0 _,
      readReg_writeEgcd_rd ra rb s hdc hde, readReg_writeEgcd_rc ra rb s hce, readReg_writeEgcd_re ra rb s,
      bezout_writeEgcd ra rb s hdist, fun k hkd hkc hke => readReg_writeEgcd_other ra rb s hkd hkc hke,
      sameOutsideModArith_finish.2 (sameOutsideModArith_writeEgcd ra rb s), rfl⟩
  · exact decode_encode_of_not_wellFormed (i := .egcd rd rc re ra rb) (mt egcd_wellFormed_iff.1 hcoin)
  · exact ⟨finish .illegal 0 s, exec_egcd_of_coinciding ra rb s hcoin, finish_completed .illegal 0 s,
      finish_sameButStatus .illegal 0 s⟩

/-! ## `MODINV` (R106) -/

section

variable {s : State} {rd ra rb : RegIdx}

theorem exec_modinv_of_zero (h : readReg s rb = 0) : exec (.modinv rd ra rb) s = raiseError .modulus s :=
  if_pos h

theorem exec_modinv_of_none (h : readReg s rb ≠ 0) (hnone : modInverse (readReg s ra) (readReg s rb) = none) :
    exec (.modinv rd ra rb) s = raiseError .noInverse s := by
  simp [exec, execModinv, h, hnone]

theorem exec_modinv_of_some {y : Nat} (h : readReg s rb ≠ 0) (hsome : modInverse (readReg s ra) (readReg s rb) = some y) :
    exec (.modinv rd ra rb) s = complete 0 (writeReg rd y s) := by
  simp [exec, execModinv, h, hsome]

end

/-- Settles O27: the three answers of the command, by the two of `ModInverse`. -/
theorem modinvRule : Obligations.ModinvRule := by
  intro rd ra rb
  refine ⟨decodeOfEncode (.modinv rd ra rb) rfl, fun s => ⟨fun hzero => ?_, fun hpos hgcd => ?_, fun hpos hgcd => ?_⟩⟩
  · exact ⟨finish .modulus 0 s, exec_modinv_of_zero hzero, finish_completed .modulus 0 s,
      finish_sameButStatus .modulus 0 s⟩
  · exact ⟨finish .noInverse 0 s, exec_modinv_of_none hpos (modInverse_eq_none_iff.2 hgcd),
      finish_completed .noInverse 0 s, finish_sameButStatus .noInverse 0 s⟩
  · obtain ⟨y, hy⟩ := Option.ne_none_iff_exists'.1 fun h => modInverse_eq_none_iff.1 h hgcd
    obtain ⟨hlt, hinv⟩ := (modInverse_eq_some_iff (Nat.pos_of_ne_zero hpos)).1 hy
    have hres : readReg (writeReg rd y s) rd = y := readReg_writeReg_same rd y s
    refine ⟨finish .ok 0 (writeReg rd y s), exec_modinv_of_some hpos hy, finish_completed .ok 0 _, hres.trans_lt hlt, ?_,
      sameRegsBut_writeReg rd y s, sameOutsideModArith_finish_writeReg _ _ rd y s, rfl⟩
    exact (congrArg (readReg s ra * · % readReg s rb) hres).trans hinv

end Sys2Proof.Machine

/-! `IsProbablePrime` (R108): the verdicts of the trial divisions, and that no round rejects a prime. -/

namespace Sys2Proof.Machine

/-! ## Trial division by a table -/

section

variable {p : Nat}

theorem tableVerdict_eq_none_iff {qs : List Nat} : tableVerdict p qs = none ↔ ∀ q ∈ qs, ¬ q ∣ p := by
  induction qs with
  | nil => simp [tableVerdict]
  | cons q qs ih =>
    rw [tableVerdict, List.forall_mem_cons, ← ih]
    split_ifs with heq hmod
    · simp [heq]
    · simp [Nat.dvd_of_mod_eq_zero hmod]
    · simp [Nat.dvd_iff_mod_eq_zero, hmod]

/-- A verdict comes from a divisor in the table: accepted if it is the number itself, else rejected. -/
theorem tableVerdict_eq_some {v : Bool} {qs : List Nat} (h : tableVerdict p qs = some v) :
    ∃ q ∈ qs, q ∣ p ∧ (v = true ↔ p = q) := by
  induction qs with
  | nil => simp [tableVerdict] at h
  | cons q qs ih =>
    rw [tableVerdict] at h
    split_ifs at h with heq hmod
    · cases h
      exact ⟨q, List.mem_cons_self, heq ▸ dvd_rfl, iff_of_true rfl heq⟩
    · cases h
      exact ⟨q, List.mem_cons_self, Nat.dvd_of_mod_eq_zero hmod, iff_of_false nofun heq⟩
    · obtain ⟨r, hr, hdvd, hv⟩ := ih h
      exact ⟨r, List.mem_cons_of_mem q hr, hdvd, hv⟩

/-- A verdict by the table of primes is right. -/
theorem tableVerdict_primeTable {c : Config} {v : Bool} (h : tableVerdict p (primeTable c) = some v) :
    v = true ↔ Nat.Prime p := by
  obtain ⟨q, hmem, hdvd, hv⟩ := tableVerdict_eq_some h
  have hq : Nat.Prime q := ((mem_primeTable c q).1 hmem).1
  rw [hv]
  exact ⟨fun h => h ▸ hq, fun hp => ((Nat.prime_dvd_prime_iff_eq hq hp).1 hdvd).symm⟩

/-! ## The test -/

theorem isProbablePrime_of_verdict {table : List Nat} {rounds : Nat} {port : RndPort} {v : Bool}
    (h : tableVerdict p table = some v) : isProbablePrime table p rounds port = (v, port) := by
  rw [isProbablePrime, h]

theorem isProbablePrime_of_no_verdict {table : List Nat} {rounds : Nat} {port : RndPort}
    (h : tableVerdict p table = none) : isProbablePrime table p rounds port = millerRabin p rounds port := by
  rw [isProbablePrime, h]

/-- A drawn witness lies strictly between 1 and `p - 1`, so a prime passes every round. -/
theorem millerRabin_of_prime (hp : Nat.Prime p) (h4 : 4 ≤ p) : ∀ (rounds : Nat) (port : RndPort),
    (millerRabin p rounds port).1 = true
  | 0, _ => rfl
  | k + 1, port => by
    obtain ⟨hlo, hhi⟩ := drawRnd_mem port (by omega : 2 ≤ p - 2)
    have hpass : roundPasses p (drawRnd port 2 (p - 2)).1 = true :=
      roundPasses_of_prime hp (by omega) (Nat.not_dvd_of_pos_of_lt (by omega) (by omega))
    simp [millerRabin, hpass, millerRabin_of_prime hp h4 k]

/-- No prime is rejected: 2 and 3 are in the table, and a larger one passes every round. -/
theorem isProbablePrime_of_prime (hp : Nat.Prime p) (c : Config) (rounds : Nat) (port : RndPort) :
    (isProbablePrime (primeTable c) p rounds port).1 = true := by
  cases hv : tableVerdict p (primeTable c) with
  | some v =>
    rw [isProbablePrime_of_verdict hv]
    exact (tableVerdict_primeTable hv).2 hp
  | none =>
    rw [isProbablePrime_of_no_verdict hv]
    refine millerRabin_of_prime hp (Nat.lt_of_not_le fun h3 => ?_) rounds port
    exact tableVerdict_eq_none_iff.1 hv p ((mem_primeTable c p).2 ⟨hp, h3.trans (le_max_left 3 _)⟩) dvd_rfl

/-- A composite with a factor in the table is rejected before any draw. -/
theorem isProbablePrime_of_factor {c : Config} (hp : ¬ Nat.Prime p) (hfactor : ∃ q ∈ primeTable c, q ∣ p) (rounds : Nat)
    (port : RndPort) : (isProbablePrime (primeTable c) p rounds port).1 = false := by
  obtain ⟨q, hmem, hdvd⟩ := hfactor
  cases hv : tableVerdict p (primeTable c) with
  | none => exact absurd hdvd (tableVerdict_eq_none_iff.1 hv q hmem)
  | some v =>
    rw [isProbablePrime_of_verdict hv]
    exact Bool.eq_false_iff.2 (mt (tableVerdict_primeTable hv).1 hp)

end

/-- Settles O30: the verdicts of the table are right, and the rounds reject no prime. -/
theorem primalityTestFacts : Obligations.PrimalityTestFacts := by
  refine fun c p rounds port _ _ => ⟨fun hp => isProbablePrime_of_prime hp c rounds port,
    fun hp hfactor => isProbablePrime_of_factor hp hfactor rounds port, fun hfree => ?_⟩
  rw [isProbablePrime_of_no_verdict (tableVerdict_eq_none_iff.2 hfree)]
  rfl

end Sys2Proof.Machine

/-! `SqrtMod` and the command `SQRTMOD` (R109 to R112): the answer for a prime modulus is a function of the number and the
modulus alone, and every outcome of the command by the answer. -/

namespace Sys2Proof.Machine

/-! ## A non-residue is always found (R110) -/

/-- The search by counting finds a non-residue when there is one in its range. -/
theorem leastNonResidue_spec {p w : Nat} (hw : isNonResidue p w = true) : ∀ {n z : Nat}, z ≤ w → w < z + n →
    isNonResidue p (leastNonResidue p n z) = true
  | 0, _, hz, hn => absurd hn (by omega)
  | n + 1, z, hz, hn => by
    rw [leastNonResidue]
    split_ifs with h
    · exact h
    · have hne : z ≠ w := fun heq => h (heq ▸ hw)
      exact leastNonResidue_spec hw (by omega) (by omega)

section

variable {p : Nat} (hp : Nat.Prime p) (hodd : p ≠ 2)
include hp hodd

theorem exists_nonResidue : ∃ w, 2 ≤ w ∧ w < p ∧ isNonResidue p w = true := by
  have : Fact p.Prime := ⟨hp⟩
  obtain ⟨y, hy⟩ := FiniteField.exists_nonsquare (F := ZMod p) (by rwa [ZMod.ringChar_zmod_n])
  have hy0 : y ≠ 0 := fun h => hy (h ▸ IsSquare.zero)
  have hy1 : y ≠ 1 := fun h => hy (h ▸ IsSquare.one)
  have hval : (y.val : ZMod p) = y := ZMod.natCast_rightInverse y
  have h0 : y.val ≠ 0 := fun h => hy0 (by rw [← hval, h, Nat.cast_zero])
  have h1 : y.val ≠ 1 := fun h => hy1 (by rw [← hval, h, Nat.cast_one])
  refine ⟨y.val, by omega, y.val_lt, (isNonResidue_iff_pow hp hodd _).2 ?_⟩
  rw [hval]
  exact (ZMod.pow_div_two_eq_neg_one_or_one p hy0).resolve_left (mt (ZMod.euler_criterion p hy0).2 hy)

theorem drawNonResidue_spec : ∀ (waiting : List Nat) (freeDraws : Nat),
    isNonResidue p (drawNonResidue p waiting freeDraws).1 = true
  | [], _ => by
    obtain ⟨w, h2, hlt, hw⟩ := exists_nonResidue hp hodd
    exact leastNonResidue_spec hw h2 (by omega)
  | v :: rest, freeDraws => by
    rw [drawNonResidue]
    split_ifs with h
    · exact h
    · exact drawNonResidue_spec rest freeDraws

end

/-! ## The answer for a prime modulus (R109) -/

/-- The two roots of a residue, in ascending order (R109). -/
structure RootPair (p a r1 r2 : Nat) : Prop where
  lt : r1 < r2
  sum : r1 + r2 = p
  left : r1 * r1 % p = a
  right : r2 * r2 % p = a

/-- The negative of a root is a root. -/
theorem neg_root {p r : Nat} (hr : r ≤ p) : (p - r) * (p - r) % p = r * r % p := by
  refine (ZMod.natCast_eq_natCast_iff' _ _ p).1 ?_
  push_cast [Nat.cast_sub hr]
  rw [ZMod.natCast_self, zero_sub, neg_mul_neg]

/-- A root and its negative, put in order, are the two roots. -/
theorem rootPair_of_root {p a r : Nat} (hp : p % 2 = 1) (h1 : 1 ≤ r) (hr : r ≤ p - 1) (hroot : r * r % p = a) :
    RootPair p a (min r (p - r)) (max r (p - r)) := by
  have hneg : (p - r) * (p - r) % p = a := (neg_root (by omega)).trans hroot
  rcases le_total r (p - r) with hle | hle
  · rw [min_eq_left hle, max_eq_right hle]
    exact ⟨by omega, by omega, hroot, hneg⟩
  · rw [min_eq_right hle, max_eq_left hle]
    exact ⟨by omega, by omega, hneg, hroot⟩

/-- There is one pair only: a residue of a prime has no third root. -/
theorem RootPair.unique {p a r1 r2 r1' r2' : Nat} (hp : Nat.Prime p) (h : RootPair p a r1 r2) (h' : RootPair p a r1' r2') :
    r1 = r1' ∧ r2 = r2' := by
  have : Fact p.Prime := ⟨hp⟩
  have hsq : (r1 : ZMod p) * r1 = r1' * r1' := by
    rw [← cast_mulMod, ← cast_mulMod, h.left, h'.left]
  obtain ⟨hlt, hsum, -, -⟩ := h
  obtain ⟨hlt', hsum', -, -⟩ := h'
  rcases mul_self_eq_mul_self_iff.1 hsq with heq | heq
  · have := (eq_iff_cast_eq_of_lt (by omega) (by omega)).2 heq
    omega
  · have hdvd : p ∣ r1 + r1' := (ZMod.natCast_eq_zero_iff _ p).1 (by rw [Nat.cast_add, heq, neg_add_cancel])
    have := Nat.eq_zero_of_dvd_of_lt hdvd (by omega)
    omega

/-- What R109 answers for a number and a prime modulus. -/
def PrimeAnswer (n p : Nat) : SqrtResult → Prop
  | .zeroRoot => n % p = 0
  | .noRoot => n % p ≠ 0 ∧ ¬ ∃ x : Nat, x * x % p = n % p
  | .twoRoots r1 r2 => n % p ≠ 0 ∧ RootPair p (n % p) r1 r2
  | .badModulus | .unspecified => False

section

variable {n p : Nat}

theorem PrimeAnswer.eq_zeroRoot (hn : n % p = 0) : ∀ {res : SqrtResult}, PrimeAnswer n p res → res = .zeroRoot
  | .zeroRoot, _ => rfl
  | .noRoot, h => absurd hn h.1
  | .twoRoots _ _, h => absurd hn h.1

theorem PrimeAnswer.eq_noRoot (hn : n % p ≠ 0) (hres : ¬ ∃ x : Nat, x * x % p = n % p) :
    ∀ {res : SqrtResult}, PrimeAnswer n p res → res = .noRoot
  | .zeroRoot, h => absurd h hn
  | .noRoot, _ => rfl
  | .twoRoots r1 _, h => absurd ⟨r1, h.2.left⟩ hres

theorem PrimeAnswer.eq_twoRoots (hn : n % p ≠ 0) (hres : ∃ x : Nat, x * x % p = n % p) :
    ∀ {res : SqrtResult}, PrimeAnswer n p res → ∃ r1 r2, res = .twoRoots r1 r2 ∧ RootPair p (n % p) r1 r2
  | .zeroRoot, h => absurd h hn
  | .noRoot, h => absurd hres h.2
  | .twoRoots r1 r2, h => ⟨r1, r2, rfl, h.2⟩

/-- The answer is a function of the number and the modulus alone. -/
theorem PrimeAnswer.unique (hp : Nat.Prime p) {res res' : SqrtResult} (h : PrimeAnswer n p res)
    (h' : PrimeAnswer n p res') : res = res' := by
  by_cases hn : n % p = 0
  · rw [h.eq_zeroRoot hn, h'.eq_zeroRoot hn]
  by_cases hres : ∃ x : Nat, x * x % p = n % p
  · obtain ⟨r1, r2, rfl, hpair⟩ := h.eq_twoRoots hn hres
    obtain ⟨r1', r2', rfl, hpair'⟩ := h'.eq_twoRoots hn hres
    obtain ⟨rfl, rfl⟩ := hpair.unique hp hpair'
    rfl
  · rw [h.eq_noRoot hn hres, h'.eq_noRoot hn hres]

/-- After the test has accepted a prime, `SqrtMod` answers what R109 says, whatever is drawn. -/
theorem sqrtModPrime_answer (hp : Nat.Prime p) (hodd : p ≠ 2) (n : Nat) (port : RndPort) :
    PrimeAnswer n p (sqrtModPrime n p port).1 := by
  have hmod : n % p % p = n % p := Nat.mod_mod n p
  unfold sqrtModPrime
  dsimp only
  split_ifs with hn hpow
  · exact hn
  · rw [powMod_half_eq_pred_iff_nonResidue hp hodd (by rwa [hmod]), hmod] at hpow
    exact ⟨hn, hpow⟩
  · rw [powMod_half_eq_pred_iff_nonResidue hp hodd (by rwa [hmod]), hmod, not_not] at hpow
    obtain ⟨r, hr, h1, hle, hroot⟩ := tonelliShanks_root hp hodd (Nat.pos_of_ne_zero hn) (Nat.mod_lt n hp.pos) hpow
      (drawNonResidue_spec hp hodd port.waiting port.freeDraws)
    rw [hr]
    exact ⟨hn, rootPair_of_root (odd_of_odd_prime hp hodd) h1 hle hroot⟩

end

/-! ## The answer for every modulus (R109, R111) -/

section

variable {c : Config} {n p rounds : Nat} {port : RndPort}

theorem sqrtMod_of_small_or_even {table : List Nat} (h : p < 3 ∨ p % 2 = 0) :
    sqrtMod table n p rounds port = (.badModulus, port) :=
  if_pos h

/-- For an odd modulus of at least 3 the test decides, and on acceptance the exact decision of R111's case. -/
theorem sqrtMod_of_odd {table : List Nat} (h : ¬ (p < 3 ∨ p % 2 = 0)) :
    (sqrtMod table n p rounds port).1 =
      if (isProbablePrime table p rounds port).1 = true then
        if Nat.Prime p then (sqrtModPrime n p (isProbablePrime table p rounds port).2).1 else .unspecified
      else .badModulus := by
  unfold sqrtMod
  rw [if_neg h]
  rcases isProbablePrime table p rounds port with ⟨accepted, port'⟩
  cases accepted
  · rfl
  · simp only [takenForPrime_iff, if_true]
    split_ifs <;> rfl

theorem sqrtMod_of_rejected (h : (isProbablePrime (primeTable c) p rounds port).1 = false) :
    (sqrtMod (primeTable c) n p rounds port).1 = .badModulus := by
  by_cases hp : p < 3 ∨ p % 2 = 0
  · rw [sqrtMod_of_small_or_even hp]
  · simp [sqrtMod_of_odd hp, h]

theorem sqrtMod_of_accepted_composite (h3 : 3 ≤ p) (hodd : p % 2 = 1) (hp : ¬ Nat.Prime p)
    (h : (isProbablePrime (primeTable c) p rounds port).1 = true) :
    (sqrtMod (primeTable c) n p rounds port).1 = .unspecified := by
  simp [sqrtMod_of_odd (by omega : ¬ (p < 3 ∨ p % 2 = 0)), h, hp]

theorem sqrtMod_of_odd_prime (hp : Nat.Prime p) (h2 : p ≠ 2) :
    PrimeAnswer n p (sqrtMod (primeTable c) n p rounds port).1 := by
  have h3 := three_le_of_odd_prime hp h2
  have hodd := odd_of_odd_prime hp h2
  rw [sqrtMod_of_odd (by omega), if_pos (isProbablePrime_of_prime hp c rounds port), if_pos hp]
  exact sqrtModPrime_answer hp h2 n _

/-- The unspecified answer is left to odd composite moduli. -/
theorem composite_of_sqrtMod_unspecified (h : (sqrtMod (primeTable c) n p rounds port).1 = .unspecified) :
    3 ≤ p ∧ p % 2 = 1 ∧ ¬ Nat.Prime p := by
  have hlegal : ¬ (p < 3 ∨ p % 2 = 0) := fun hp => by simp [sqrtMod_of_small_or_even hp] at h
  refine ⟨by omega, by omega, fun hp => ?_⟩
  have hanswer : PrimeAnswer n p (sqrtMod (primeTable c) n p rounds port).1 := sqrtMod_of_odd_prime hp (by omega)
  rw [h] at hanswer
  exact hanswer

end

/-! ## The command (R112) -/

/-- How `SQRTMOD` ends with an answer of `SqrtMod`. -/
def endSqrtmod (rd rc : RegIdx) (s : State) : SqrtResult → Result
  | .badModulus => raiseError .modulus s
  | .noRoot => complete 0 s
  | .zeroRoot => complete 1 (writeReg rd 0 s)
  | .twoRoots r1 r2 => complete 2 (writeReg rc r2 (writeReg rd r1 s))
  | .unspecified => .fault .sqrtModCompositeModulus

/-- The answer of `SqrtMod` for the operands of the command, with the random source it leaves. -/
def sqrtModOf (ra rb : RegIdx) (rounds : BitVec 8) (s : State) : SqrtResult × RndPort :=
  sqrtMod (primeTable s.cfg) (readReg s ra) (readReg s rb) rounds.toNat s.rnd

section

variable {rd rc : RegIdx}

theorem sqrtmod_wellFormed {ra rb : RegIdx} {rounds : BitVec 8} :
    (Instr.sqrtmod rd rc ra rb rounds).wellFormed = true ↔ rd ≠ rc := by
  simp [Instr.wellFormed]

theorem exec_sqrtmod_of_coinciding (h : ¬ rd ≠ rc) (ra rb : RegIdx) (rounds : BitVec 8) (s : State) :
    exec (.sqrtmod rd rc ra rb rounds) s = raiseError .illegal s :=
  if_neg (mt sqrtmod_wellFormed.1 h)

theorem exec_sqrtmod (h : rd ≠ rc) (ra rb : RegIdx) (rounds : BitVec 8) (s : State) :
    exec (.sqrtmod rd rc ra rb rounds) s =
      endSqrtmod rd rc (writeRnd (sqrtModOf ra rb rounds s).2 s) (sqrtModOf ra rb rounds s).1 := by
  refine (if_pos (sqrtmod_wellFormed.2 h)).trans ?_
  unfold sqrtModOf
  rcases sqrtMod (primeTable s.cfg) (readReg s ra) (readReg s rb) rounds.toNat s.rnd with ⟨res, port⟩
  cases res <;> rfl

end

/-- Settles O33: each of the four disjuncts makes `SqrtMod` answer `BadModulus`. -/
theorem sqrtmodRejectsModulus : Obligations.SqrtmodRejectsModulus := by
  intro rd rc ra rb rounds s hdist hbad
  have hres : (sqrtModOf ra rb rounds s).1 = .badModulus := by
    rcases hbad with hsmall | heven | hrejected | ⟨hp, hfactor⟩
    · exact congrArg Prod.fst (sqrtMod_of_small_or_even (.inl hsmall))
    · exact congrArg Prod.fst (sqrtMod_of_small_or_even (.inr heven))
    · exact sqrtMod_of_rejected hrejected
    · exact sqrtMod_of_rejected (isProbablePrime_of_factor hp hfactor _ _)
  refine ⟨finish .modulus 0 (writeRnd (sqrtModOf ra rb rounds s).2 s), ?_, finish_completed .modulus 0 _,
    finish_sameButStatus .modulus 0 _⟩
  rw [exec_sqrtmod hdist, hres]
  rfl

/-- Settles O35: an accepted odd composite gets the unspecified answer, on which the command faults. -/
theorem sqrtmodAcceptedCompositeStops : Obligations.SqrtmodAcceptedCompositeStops := by
  intro rd rc ra rb rounds s hdist h3 hodd hp haccepted
  have hres : (sqrtModOf ra rb rounds s).1 = .unspecified := sqrtMod_of_accepted_composite h3 hodd hp haccepted
  rw [exec_sqrtmod hdist, hres]
  rfl

theorem sqrtModOf_of_odd_prime {rb : RegIdx} {s : State} (hp : Nat.Prime (readReg s rb)) (h2 : readReg s rb ≠ 2)
    (ra : RegIdx) (rounds : BitVec 8) :
    PrimeAnswer (readReg s ra) (readReg s rb) (sqrtModOf ra rb rounds s).1 :=
  sqrtMod_of_odd_prime hp h2

/-- With an answer for a prime modulus the command completes, and what it leaves does not depend on the random source but for
the source itself. -/
theorem endSqrtmod_of_answer {n p : Nat} {res : SqrtResult} (h : PrimeAnswer n p res) (rd rc : RegIdx) (s : State)
    (port port' : RndPort) : ∃ t, endSqrtmod rd rc (writeRnd port s) res = .next t ∧
      endSqrtmod rd rc (writeRnd port' s) res = .next (writeRnd port' t) := by
  cases res with
  | badModulus | unspecified => exact h.elim
  | noRoot | zeroRoot | twoRoots => exact ⟨_, rfl, rfl⟩

/-- What the command leaves unchanged, whatever the answer. -/
theorem endSqrtmod_frame {rd rc : RegIdx} {s t : State} : ∀ {res : SqrtResult}, endSqrtmod rd rc s res = .next t →
    SameOutsideModArith s t ∧ ∀ k : RegIdx, k ≠ rd → k ≠ rc → t.r[k] = s.r[k]
  | .badModulus, h => by
    obtain rfl := raiseError_eq_next.1 h
    exact ⟨sameOutsideModArith_refl s, fun _ _ _ => rfl⟩
  | .noRoot, h => by
    obtain rfl := complete_eq_next.1 h
    exact ⟨sameOutsideModArith_refl s, fun _ _ _ => rfl⟩
  | .zeroRoot, h => by
    obtain rfl := complete_eq_next.1 h
    exact ⟨sameOutsideModArith_refl s, fun k hd _ => sameRegsBut_writeReg rd 0 s k hd⟩
  | .twoRoots r1 r2, h => by
    obtain rfl := complete_eq_next.1 h
    exact ⟨sameOutsideModArith_refl s,
      fun k hd hc => (sameRegsBut_writeReg rc r2 _ k hc).trans (sameRegsBut_writeReg rd r1 s k hd)⟩

/-- The two roots stand in their registers (R112). -/
theorem endSqrtmod_twoRoots {rd rc : RegIdx} (hdist : rd ≠ rc) {r1 r2 : Nat} {s t : State}
    (h : endSqrtmod rd rc s (.twoRoots r1 r2) = .next t) : Completed .ok 2 t ∧ t.r[rd] = r1 ∧ t.r[rc] = r2 := by
  obtain rfl := complete_eq_next.1 h
  exact ⟨finish_completed .ok 2 _, (sameRegsBut_writeReg rc r2 _ rd hdist).trans (readReg_writeReg_same rd r1 s),
    readReg_writeReg_same rc r2 _⟩

/-- Settles O32: which of the three answers of R109 it is, and what the command writes for each. -/
theorem sqrtmodPrimeRule : Obligations.SqrtmodPrimeRule := by
  intro rd rc ra rb rounds s hdist hp h2
  have hanswer := sqrtModOf_of_odd_prime hp h2 ra rounds
  obtain ⟨t, ht, -⟩ := endSqrtmod_of_answer hanswer rd rc s (sqrtModOf ra rb rounds s).2 s.rnd
  obtain ⟨hframe, hregs⟩ := endSqrtmod_frame ht
  refine ⟨t, (exec_sqrtmod hdist ra rb rounds s).trans ht, hframe, hregs, fun hn => ?_, fun hn hres => ?_,
    fun hn hres => ?_⟩
  · rw [hanswer.eq_zeroRoot hn] at ht
    obtain rfl := complete_eq_next.1 ht
    exact ⟨finish_completed .ok 1 _, readReg_writeReg_same rd 0 _, sameRegsBut_writeReg rd 0 _⟩
  · rw [hanswer.eq_noRoot hn hres] at ht
    obtain rfl := complete_eq_next.1 ht
    exact ⟨finish_completed .ok 0 _, rfl⟩
  · obtain ⟨r1, r2, heq, hpair⟩ := hanswer.eq_twoRoots hn hres
    rw [heq] at ht
    obtain ⟨hdone, hrd, hrc⟩ := endSqrtmod_twoRoots hdist ht
    rw [hrd, hrc]
    exact ⟨hdone, hpair.lt, hpair.sum, hpair.left, hpair.right⟩

/-- Settles O34: both runs get the one answer that R109 allows, and only the source they leave differs. -/
theorem sqrtmodDrawIndependent : Obligations.SqrtmodDrawIndependent := by
  intro rd rc ra rb rounds s port port' hdist hp h2
  have hanswer := sqrtModOf_of_odd_prime (s := writeRnd port s) hp h2 ra rounds
  have hanswer' := sqrtModOf_of_odd_prime (s := writeRnd port' s) hp h2 ra rounds
  have hsame := hanswer'.unique hp hanswer
  obtain ⟨t, ht, ht'⟩ := endSqrtmod_of_answer hanswer rd rc s (sqrtModOf ra rb rounds (writeRnd port s)).2
    (sqrtModOf ra rb rounds (writeRnd port' s)).2
  refine ⟨t, writeRnd (sqrtModOf ra rb rounds (writeRnd port' s)).2 t,
    (exec_sqrtmod hdist ra rb rounds (writeRnd port s)).trans ht,
    (exec_sqrtmod hdist ra rb rounds (writeRnd port' s)).trans ?_, rfl⟩
  rw [hsame]
  exact ht'

end Sys2Proof.Machine

/-! Where the machine stops: every command but `SQRTMOD` completes, and `SQRTMOD` unless R111 leaves it unspecified. -/

namespace Sys2Proof.Machine

/-! ## Commands that always complete (R45) -/

theorem completes_complete (k : BitVec 2) (s : State) : Completes (complete k s) := ⟨_, rfl⟩

theorem completes_raiseError (e : ErrCode) (s : State) : Completes (raiseError e s) := ⟨_, rfl⟩

theorem completes_ite {p : Prop} [Decidable p] {o o' : Result} (h : Completes o) (h' : Completes o') :
    Completes (if p then o else o') := by
  split_ifs
  · exact h
  · exact h'

theorem completes_withModulus {s : State} {go : Result} (h : Completes go) : Completes (withModulus s go) :=
  completes_ite (completes_raiseError .modulus s) h

theorem completes_completePoint {s : State} (pd : PtIdx) : ∀ r : Except EcError Point, Completes (completePoint pd r s)
  | .error _ => completes_raiseError _ s
  | .ok _ => completes_complete 0 _

theorem completes_execModinv {s : State} (rd ra rb : RegIdx) : Completes (execModinv rd ra rb s) := by
  refine completes_ite (completes_raiseError .modulus s) ?_
  split
  · exact completes_raiseError .noInverse s
  · exact completes_complete 0 _

/-- Every command other than `SQRTMOD` completes, with or without an error. -/
theorem completes_exec (s : State) : ∀ i : Instr, (∀ rd rc ra rb rounds, i ≠ .sqrtmod rd rc ra rb rounds) →
    Completes (exec i s)
  | .gcd .., _ => completes_complete 0 _
  | .egcd .., _ => completes_ite (completes_complete 0 _) (completes_raiseError .illegal s)
  | .modinv rd ra rb, _ => completes_execModinv rd ra rb
  | .sqrtmod rd rc ra rb rounds, h => absurd rfl (h rd rc ra rb rounds)
  | .shaInit _, _ => completes_complete 0 _
  | .shaBlock, _ => completes_complete 0 _
  | .shaFinal _, _ => completes_ite (completes_raiseError .param s) (completes_complete 0 _)
  | .rmdInit, _ => completes_complete 0 _
  | .rmdBlock, _ => completes_complete 0 _
  | .rmdFinal _, _ => completes_ite (completes_raiseError .param s) (completes_complete 0 _)
  | .hmacInit .., _ => completes_ite (completes_raiseError .param s) (completes_complete 0 _)
  | .hmacFinal _, _ =>
    completes_ite (completes_raiseError .seq s) (completes_ite (completes_raiseError .param s) (completes_complete 0 _))
  | .ecOncurve _, _ => completes_withModulus (completes_complete _ s)
  | .ecAdd pd _ _, _ => completes_withModulus (completes_completePoint pd _)
  | .ecDbl pd _, _ => completes_withModulus (completes_completePoint pd _)
  | .ecMul pd _ _, _ => completes_withModulus (completes_completePoint pd _)
  | .ecNeg .., _ => completes_withModulus (completes_complete 0 _)
  | .ecLdg _, _ => completes_complete 0 _

/-! ## The outcomes of `SQRTMOD`, of a command and of a step -/

theorem endSqrtmod_cases (rd rc : RegIdx) (s : State) : ∀ res : SqrtResult,
    Completes (endSqrtmod rd rc s res) ∨
      (res = .unspecified ∧ endSqrtmod rd rc s res = .fault .sqrtModCompositeModulus)
  | .badModulus => .inl (completes_raiseError .modulus s)
  | .noRoot => .inl (completes_complete 0 s)
  | .zeroRoot => .inl (completes_complete 1 _)
  | .twoRoots _ _ => .inl (completes_complete 2 _)
  | .unspecified => .inr ⟨rfl, rfl⟩

theorem exec_sqrtmod_cases (rd rc ra rb : RegIdx) (rounds : BitVec 8) (s : State) :
    Completes (exec (.sqrtmod rd rc ra rb rounds) s) ∨
      ((3 ≤ s.r[rb] ∧ s.r[rb] % 2 = 1 ∧ ¬ Nat.Prime s.r[rb]) ∧
        exec (.sqrtmod rd rc ra rb rounds) s = .fault .sqrtModCompositeModulus) := by
  by_cases hdist : rd ≠ rc
  · rw [exec_sqrtmod hdist]
    refine (endSqrtmod_cases rd rc _ _).imp_right fun ⟨hres, hfault⟩ => ⟨?_, hfault⟩
    exact composite_of_sqrtMod_unspecified hres
  · rw [exec_sqrtmod_of_coinciding hdist]
    exact .inl (completes_raiseError .illegal s)

/-- The states from which the engine's next action is the unspecified case of R111. -/
def StopsAtSqrtmod (s : State) : Prop :=
  s.busy = true ∧ ∃ rd rc ra rb rounds, decode s.cmdreg = .ok (.sqrtmod rd rc ra rb rounds) ∧
    3 ≤ s.r[rb] ∧ s.r[rb] % 2 = 1 ∧ ¬ Nat.Prime s.r[rb]

theorem engineTurn_stops (s : State) :
    Completes (engineTurn s) ∨ (StopsAtSqrtmod s ∧ engineTurn s = .fault .sqrtModCompositeModulus) := by
  rcases engineTurn_cases s with ⟨hbusy, hturn⟩ | ⟨-, hturn⟩
  · rcases engineStep_cases s with ⟨i, hdec, hstep⟩ | ⟨_, -, hstep⟩ <;> rw [hturn, hstep]
    · by_cases hi : ∀ rd rc ra rb rounds, i ≠ .sqrtmod rd rc ra rb rounds
      · exact .inl (completes_exec s i hi)
      · push Not at hi
        obtain ⟨rd, rc, ra, rb, rounds, rfl⟩ := hi
        refine (exec_sqrtmod_cases rd rc ra rb rounds s).imp_right fun ⟨hmod, hfault⟩ => ⟨?_, hfault⟩
        exact ⟨hbusy, rd, rc, ra, rb, rounds, hdec, hmod⟩
    · exact .inl (completes_raiseError .illegal s)
  · exact .inl ⟨s, hturn⟩

/-- A step completes, or it is the engine's turn in a state that stops. -/
theorem step_stops (s : State) :
    Completes (step s) ∨ (StopsAtSqrtmod s ∧ step s = .fault .sqrtModCompositeModulus) := by
  rcases step_cases s with ⟨-, hstep⟩ | ⟨turn, rest, -, hstep⟩ <;> rw [hstep]
  · exact engineTurn_stops s
  · cases turn with
    | read | write | hardReset => exact .inl ⟨_, rfl⟩
    | engine => exact engineTurn_stops { s with turns := rest }

/-- Settles O21: a step that does not complete is the engine's on a pending `SQRTMOD`, and there `SqrtMod` answers the
unspecified result only for an odd composite modulus, since on a prime one the loop of R110 finds a root. -/
theorem stopsOnlyOnCompositeModulus : Obligations.StopsOnlyOnCompositeModulus := by
  refine ⟨fun s r hr => ?_, fun s f hf => ?_⟩ <;> rcases step_stops s with ⟨t, ht⟩ | ⟨hstop, ht⟩
  · cases ht.symm.trans hr
  · cases ht.symm.trans hr
  · cases ht.symm.trans hf
  · exact hstop

end Sys2Proof.Machine

/-! Hashing a message block by block (R137, R139, R165, R167), for any hash: cutting a byte string into blocks, the padding, and
the chaining value of the message read so far. -/

namespace Sys2Proof.Machine

/-! ## Cutting into blocks -/

/-- Of at least one block there is a first, and one block less remains. -/
theorem length_split_block {len k : Nat} {bs : List Byte} (h : bs.length = len * (k + 1)) :
    len ≤ bs.length ∧ (bs.drop len).length = len * k := by
  rw [List.length_drop, h, Nat.mul_succ, Nat.add_sub_cancel]
  exact ⟨Nat.le_add_left len _, rfl⟩

/-- A whole number of blocks is cut off before the rest is cut. -/
theorem cutBlocks_append (len j : Nat) (ys : List Byte) : ∀ (k : Nat) (xs : List Byte), xs.length = len * k →
    cutBlocks len (k + j) (xs ++ ys) = cutBlocks len k xs ++ cutBlocks len j ys
  | 0, xs, hlen => by
    obtain rfl := List.eq_nil_of_length_eq_zero hlen
    simp [cutBlocks]
  | k + 1, xs, hlen => by
    obtain ⟨hle, hrest⟩ := length_split_block hlen
    rw [Nat.add_right_comm, cutBlocks, cutBlocks, List.take_append_of_le_length hle, List.drop_append_of_le_length hle,
      cutBlocks_append len j ys k _ hrest, List.cons_append]

theorem cutBlocks_one {len : Nat} {bs : List Byte} (h : bs.length = len) : cutBlocks len 1 bs = [bs] := by
  rw [cutBlocks, cutBlocks, List.take_of_length_le h.le]

theorem flatten_cutBlocks (len : Nat) : ∀ (k : Nat) (bs : List Byte), bs.length = len * k →
    (cutBlocks len k bs).flatten = bs
  | 0, bs, hlen => (List.eq_nil_of_length_eq_zero hlen).symm
  | k + 1, bs, hlen => by
    rw [cutBlocks, List.flatten_cons, flatten_cutBlocks len k _ (length_split_block hlen).2, List.take_append_drop]

theorem length_of_mem_cutBlocks {len : Nat} {blk : List Byte} : ∀ {k : Nat} {bs : List Byte}, bs.length = len * k →
    blk ∈ cutBlocks len k bs → blk.length = len
  | k + 1, bs, hlen, hmem => by
    obtain ⟨hle, hrest⟩ := length_split_block hlen
    rcases List.mem_cons.1 hmem with rfl | hmem
    · exact List.length_take_of_le hle
    · exact length_of_mem_cutBlocks hrest hmem

/-! ## The padding (R137, R165) -/

/-- The number of blocks of the padded tail: one when the byte `0x80` and the length field fit behind the tail. -/
def padCount (len lf n : Nat) : Nat := if n ≤ len - lf - 1 then 1 else 2

/-- The number of zero bytes between `0x80` and the length field. -/
def padZeros (len lf n : Nat) : Nat := residue ((len : Int) - lf - (n + 1)) len

/-- The zeros fill the last block. -/
theorem padZeros_fills {len lf n : Nat} (hlf : lf < len) (hn : n < len) :
    n + 1 + padZeros len lf n + lf = len * padCount len lf n := by
  have hres := residue_cast ((len : Int) - lf - (n + 1)) (Nat.zero_lt_of_lt hlf)
  unfold padCount padZeros
  split_ifs with hfit
  · rw [Int.emod_eq_of_lt (by omega) (by omega)] at hres
    omega
  · rw [← Int.add_emod_right, Int.emod_eq_of_lt (by omega) (by omega)] at hres
    omega

/-- The padded tail before it is cut into blocks. -/
def padString (len lf : Nat) (field : Nat → Nat → List Byte) (tail : List Byte) (total : Nat) : List Byte :=
  tail ++ 0x80 :: zeroBytes (padZeros len lf tail.length) ++ field lf (8 * total % 2 ^ (8 * lf))

section

variable {len lf : Nat} {field : Nat → Nat → List Byte} (hfield : ∀ v, (field lf v).length = lf) (hlf : lf < len)
  {tail : List Byte} (htail : tail.length < len) (total : Nat)
include hfield hlf htail

theorem length_padString : (padString len lf field tail total).length = len * padCount len lf tail.length := by
  rw [← padZeros_fills hlf htail]
  simp only [padString, List.length_append, List.length_cons, length_zeroBytes, hfield]
  omega

theorem padBlocks_eq : padBlocks len lf field tail total =
    cutBlocks len (padCount len lf tail.length) (padString len lf field tail total) := by
  have hcount : (padString len lf field tail total).length / len = padCount len lf tail.length := by
    rw [length_padString hfield hlf htail, Nat.mul_div_cancel_left _ (Nat.zero_lt_of_lt hlf)]
  rw [← hcount]
  rfl

theorem flatten_padBlocks : (padBlocks len lf field tail total).flatten = padString len lf field tail total := by
  rw [padBlocks_eq hfield hlf htail]
  exact flatten_cutBlocks len _ _ (length_padString hfield hlf htail total)

theorem length_of_mem_padBlocks {blk : List Byte} (hblk : blk ∈ padBlocks len lf field tail total) : blk.length = len := by
  rw [padBlocks_eq hfield hlf htail] at hblk
  exact length_of_mem_cutBlocks (length_padString hfield hlf htail total) hblk

theorem length_padBlocks : (padBlocks len lf field tail total).length = padCount len lf tail.length := by
  rw [padBlocks_eq hfield hlf htail, length_cutBlocks]

end

/-! ## The message read so far (R139, R167) -/

/-- The chaining value after the full blocks of a message. -/
def HashFn.running {α : Type} (f : HashFn α) (msg : List Byte) : α :=
  f.absorb f.iv (cutBlocks f.blockLen (msg.length / f.blockLen) msg)

section

variable {α : Type} {f : HashFn α} {m0 : List Byte} (hwhole : m0.length % f.blockLen = 0)
include hwhole

/-- Compressing one more block extends the message read by it. -/
theorem HashFn.running_append {blk : List Byte} (hpos : 0 < f.blockLen) (hblk : blk.length = f.blockLen) :
    f.running (m0 ++ blk) = f.compress (f.running m0) blk := by
  have hm0 : m0.length = f.blockLen * (m0.length / f.blockLen) := (Nat.mul_div_cancel' (Nat.dvd_of_mod_eq_zero hwhole)).symm
  have hcount : (m0 ++ blk).length / f.blockLen = m0.length / f.blockLen + 1 := by
    rw [List.length_append, hblk, Nat.add_div_right _ hpos]
  rw [running, running, hcount, cutBlocks_append _ 1 blk _ m0 hm0, cutBlocks_one hblk]
  exact List.foldl_append

/-- The hash of a message closes the chaining value of its full blocks with the rest. -/
theorem HashFn.hash_append {tail : List Byte} (htail : tail.length < f.blockLen) :
    f.hash (m0 ++ tail) = f.digest (f.close (f.running m0) tail (m0.length + tail.length)) := by
  have hm0 : f.blockLen * (m0.length / f.blockLen) = m0.length := Nat.mul_div_cancel' (Nat.dvd_of_mod_eq_zero hwhole)
  have hcount : (m0 ++ tail).length / f.blockLen = m0.length / f.blockLen := by
    rw [List.length_append, Nat.add_div_of_dvd_right (Nat.dvd_of_mod_eq_zero hwhole), Nat.div_eq_of_lt htail, Nat.add_zero]
  have hcut : cutBlocks f.blockLen (m0.length / f.blockLen) (m0 ++ tail) =
      cutBlocks f.blockLen (m0.length / f.blockLen) m0 := by
    simpa [cutBlocks] using cutBlocks_append f.blockLen 0 tail _ m0 hm0.symm
  rw [hash, running, hcount, hcut, hm0, List.drop_left, List.length_append]

end

/-! ## The digest buffer and the frame of the hash commands -/

theorem getD_append_zeroBytes (bs : List Byte) (k i : Nat) : (bs ++ zeroBytes k).getD i 0 = bs.getD i 0 := by
  rcases lt_or_ge i bs.length with hi | hi
  · exact List.getD_append _ _ _ _ hi
  · rw [List.getD_append_right _ _ _ _ hi, List.getD_eq_default _ _ hi, zeroBytes,
      List.getD_eq_getElem?_getD, List.getElem?_replicate]
    split_ifs <;> rfl

/-- After the write `DIG` holds the digest with zeros after it (R32). -/
theorem digestIs_writeDigest {s : State} (hwf : Memory.wf s.mem = true) {d : List Byte} (hd : d.length ≤ 64) :
    DigestIs d (writeDigest d s) := by
  intro i hi
  have hlen : i < (d ++ zeroBytes (64 - d.length)).length := by
    rw [List.length_append, length_zeroBytes]
    omega
  rw [writeDigest_mem, readByte_storeBytes_inside _ _ _ _ hwf hlen, getD_append_zeroBytes]

/-- The byte count after `n` more bytes, modulo `2^64` (R33, R34). -/
theorem toNat_add_ofNat (len : DWord) (n : Nat) : (len + BitVec.ofNat 64 n).toNat = (len.toNat + n) % 2 ^ 64 := by
  rw [BitVec.toNat_add, BitVec.toNat_ofNat, Nat.add_mod_mod]

theorem toNat_add_setWidth (len : DWord) (n : BitVec 8) : (len + n.setWidth 64).toNat = (len.toNat + n.toNat) % 2 ^ 64 := by
  rw [BitVec.toNat_add, BitVec.toNat_setWidth, Nat.add_mod_mod]

section

variable {s t : State}

theorem sameOutsideHash_refl (s : State) : SameOutsideHash s s :=
  ⟨rfl, rfl, ⟨rfl, rfl, rfl, rfl, rfl, rfl⟩, ⟨rfl, rfl, rfl, rfl, rfl⟩, ⟨rfl, rfl, rfl⟩, rfl⟩

theorem sameOutsideHash_finish {e : ErrCode} {k : BitVec 2} : SameOutsideHash s (finish e k t) ↔ SameOutsideHash s t :=
  Iff.rfl

theorem sameOutsideHash_writeDigest {d : List Byte} : SameOutsideHash s (writeDigest d t) ↔ SameOutsideHash s t := Iff.rfl

theorem sameOutsideHash_closeHmac : SameOutsideHash s (closeHmac t) ↔ SameOutsideHash s t := Iff.rfl

theorem sameOutsideHash_writeSha {h : ShaChain} {n : DWord} : SameOutsideHash s (writeSha h n t) ↔ SameOutsideHash s t :=
  Iff.rfl

theorem sameOutsideHash_writeShaMode {m : ShaMode} : SameOutsideHash s (writeShaMode m t) ↔ SameOutsideHash s t := Iff.rfl

end

end Sys2Proof.Machine

/-! The SHA-2 engine (41_sha2.md): its three commands, its padding, and that the commands together compute the hash of R139. -/

namespace Sys2Proof.Machine

/-! ## `SHA_INIT` (R140) -/

/-- Settles O36: the command's writes, one after the other. -/
theorem shaInitRule : Obligations.ShaInitRule := by
  intro alg
  refine ⟨decodeOfEncode (.shaInit alg) rfl, fun s => ?_⟩
  have hframe : SameOutsideHash s (finish .ok 0 (closeHmac (writeSha (shaIv alg) 0 (writeShaMode alg s)))) := by
    rw [sameOutsideHash_finish, sameOutsideHash_closeHmac, sameOutsideHash_writeSha, sameOutsideHash_writeShaMode]
    exact sameOutsideHash_refl s
  exact ⟨_, rfl, finish_completed .ok 0 _, rfl, rfl, rfl, rfl, ⟨rfl, rfl⟩, ⟨rfl, fun _ => rfl⟩, fun _ => rfl, hframe⟩

/-! ## `SHA_BLOCK` (R141) -/

theorem chainOf_toNat_lt (v : ShaWork 32) (i : Fin 8) : (chainOf v)[i].toNat < 2 ^ 32 := by
  have hword : ∀ x : BitVec 32, (x.setWidth 64).toNat < 2 ^ 32 := fun x =>
    (BitVec.toNat_setWidth_of_le (by decide)).trans_lt x.isLt
  fin_cases i <;> exact hword _

/-- Zero-extending the low halves and taking them again gives the same words. -/
theorem workOf_chainOf_workOf (h : ShaChain) : workOf 32 (chainOf (workOf 32 h)) = workOf 32 h := by
  simp [workOf, chainOf]

theorem shaCompress_narrow {m : ShaMode} (hm : ShaMode.isWide m = false) (h : ShaChain) (blk : List Byte) :
    shaCompress m h blk = chainOf (compressWords shaWords32 (workOf 32 h) (blockWords 32 4 blk)) := by
  simp [shaCompress, hm]

/-- Settles O37: the command's one write; in a 32-bit mode the compression takes the low halves and gives back zero-extended
words. -/
theorem shaBlockRule : Obligations.ShaBlockRule := by
  refine ⟨decodeOfEncode .shaBlock rfl, fun s => ?_⟩
  refine ⟨_, rfl, finish_completed .ok 0 _, rfl, fun hnarrow => ⟨?_, ?_⟩, toNat_add_ofNat _ _, rfl, rfl, ⟨rfl, rfl⟩,
    ⟨rfl, fun _ => rfl⟩, fun _ => rfl, ?_⟩
  · rw [finish_sh, writeSha_sh, shaCompress_narrow hnarrow]
    exact chainOf_toNat_lt _
  · rw [finish_sh, writeSha_sh, shaCompress_narrow hnarrow, shaCompress_narrow hnarrow, workOf_chainOf_workOf]
  · rw [sameOutsideHash_finish, sameOutsideHash_writeSha]
    exact sameOutsideHash_refl s

/-! ## The padding (R137) -/

theorem shaLengthLen_lt (m : ShaMode) : shaLengthLen m < shaBlockLen m := by cases m <;> decide

/-- Settles O38: the padded tail fills its blocks, so cutting it into blocks loses nothing. -/
theorem shaPadRule : Obligations.ShaPadRule := by
  intro m tail total htail
  have hfield : ∀ v, (beBytes (shaLengthLen m) v).length = shaLengthLen m := length_beBytes _
  have hlf := shaLengthLen_lt m
  exact ⟨⟨_, flatten_padBlocks hfield hlf htail total⟩, fun _ => length_of_mem_padBlocks hfield hlf htail total,
    length_padBlocks hfield hlf htail total⟩

/-! ## `SHA_FINAL` (R142) -/

/-- The chaining value that `SHA_FINAL` leaves in `SH`, for a tail of `n` bytes. -/
def closedSha (n : Nat) (s : State) : ShaChain :=
  (shaHash s.smode).close s.sh (msgBytes s n) ((s.slen.toNat + n) % 2 ^ 64)

/-- The state in which `SHA_FINAL` has written `SH`, `SLEN` and `DIG`. -/
def writeShaFinal (nbytes : BitVec 8) (s : State) : State :=
  let h := closedSha nbytes.toNat s
  writeDigest (shaDigest s.smode h) (writeSha h (s.slen + nbytes.setWidth 64) s)

section

variable {nbytes : BitVec 8} {s : State}

theorem exec_shaFinal_of_le (h : shaBlockLen s.smode ≤ nbytes.toNat) :
    exec (.shaFinal nbytes) s = raiseError .param s := if_pos h

theorem exec_shaFinal_of_lt (h : nbytes.toNat < shaBlockLen s.smode) :
    exec (.shaFinal nbytes) s = complete 0 (writeShaFinal nbytes s) := by
  rw [writeShaFinal, closedSha, ← toNat_add_setWidth]
  exact if_neg (Nat.not_le.2 h)

end

/-- Settles O39: the length check fails, or the digest is written over the state with the closed chaining value. -/
theorem shaFinalRule : Obligations.ShaFinalRule := by
  intro nbytes
  refine ⟨decodeOfEncode (.shaFinal nbytes) rfl, fun s => ⟨fun hlong => ?_, fun hshort hwf => ?_⟩⟩
  · exact ⟨finish .param 0 s, exec_shaFinal_of_le hlong, finish_completed .param 0 s, finish_sameButStatus .param 0 s⟩
  · have hlen := length_shaDigest s.smode (closedSha nbytes.toNat s)
    have hfits := hlen.trans_le (shaDigestLen_le s.smode)
    have hframe : SameOutsideHash s (finish .ok 0 (writeShaFinal nbytes s)) := by
      rw [sameOutsideHash_finish, writeShaFinal, sameOutsideHash_writeDigest, sameOutsideHash_writeSha]
      exact sameOutsideHash_refl s
    exact ⟨finish .ok 0 (writeShaFinal nbytes s), exec_shaFinal_of_lt hshort, finish_completed .ok 0 _, rfl,
      toNat_add_setWidth _ _, hlen, digestIs_writeDigest hwf hfits, writeDigest_sameBuffersButDigest hfits, rfl, rfl,
      ⟨rfl, rfl⟩, ⟨rfl, fun _ => rfl⟩, hframe⟩

/-! ## The whole message (R139) -/

theorem shaBlockLen_pos (m : ShaMode) : 0 < shaBlockLen m := Nat.zero_lt_of_lt (shaLengthLen_lt m)

/-- Settles O40: the chaining value in `SH` is that of the message read, which a block extends and the padded tail closes. -/
theorem shaStreamComputesHash : Obligations.ShaStreamComputesHash := by
  refine ⟨fun m s => ?init, fun m m0 s hholds => ?block, fun m m0 nbytes s hholds hwf htail htotal => ?final⟩
  case init =>
    obtain ⟨t, ht, -, hmode, hsh, hslen, -⟩ := (shaInitRule m).2 s
    exact ⟨t, ht, hmode, Nat.zero_mod _, by rw [hsh, List.length_nil, Nat.zero_div]; rfl, hslen⟩
  case block =>
    obtain ⟨rfl, hwhole, hrun, hcount⟩ := hholds
    obtain ⟨t, ht, -, hsh, -, hslen, hmode, -⟩ := shaBlockRule.2 s
    have hblk : (msgBytes s (shaBlockLen s.smode)).length = shaBlockLen s.smode := length_loadBytes _ _ _
    refine ⟨t, ht, hmode, ?_, ?_, ?_⟩
    · rw [List.length_append, hblk, Nat.add_mod_right, hwhole]
    · rw [hsh, hrun]
      exact (HashFn.running_append (f := shaHash s.smode) hwhole (shaBlockLen_pos _) hblk).symm
    · refine BitVec.eq_of_toNat_eq ?_
      rw [hslen, hcount, List.length_append, hblk, BitVec.toNat_ofNat, BitVec.toNat_ofNat, Nat.mod_add_mod]
  case final =>
    obtain ⟨rfl, hwhole, hrun, hcount⟩ := hholds
    obtain ⟨t, ht, hdone, hsh, -, -, hdig, -⟩ := ((shaFinalRule nbytes).2 s).2 htail hwf
    have hlen : (msgBytes s nbytes.toNat).length = nbytes.toNat := length_loadBytes _ _ _
    have hhash : hashOf (.sha s.smode) (m0 ++ msgBytes s nbytes.toNat) = shaDigest s.smode t.sh := by
      rw [hsh, hrun, hcount, BitVec.toNat_ofNat, Nat.mod_add_mod, Nat.mod_eq_of_lt htotal]
      refine (HashFn.hash_append (f := shaHash s.smode) hwhole (hlen.trans_lt htail)).trans ?_
      rw [hlen]
      rfl
    exact ⟨t, ht, hdone, hhash ▸ hdig⟩

end Sys2Proof.Machine

/-! The RIPEMD-160 engine (42_ripemd160.md): its three commands, its padding, and that the commands together compute the hash of
R167. -/

namespace Sys2Proof.Machine

theorem sameOutsideHash_writeRmd {s t : State} {h : RmdChain} {n : DWord} :
    SameOutsideHash s (writeRmd h n t) ↔ SameOutsideHash s t := Iff.rfl

/-! ## `RMD_INIT` (R168) -/

/-- Settles O41: the command writes `RH`, `RLEN` and `HACT`, one after the other. -/
theorem rmdInitRule : Obligations.RmdInitRule := by
  refine ⟨decodeOfEncode .rmdInit rfl, fun s => ?_⟩
  have hframe : SameOutsideHash s (finish .ok 0 (closeHmac (writeRmd rmdIv 0 s))) := by
    rw [sameOutsideHash_finish, sameOutsideHash_closeHmac, sameOutsideHash_writeRmd]
    exact sameOutsideHash_refl s
  exact ⟨_, rfl, finish_completed .ok 0 _, rfl, rfl, rfl, ⟨rfl, rfl, rfl⟩, ⟨rfl, fun _ => rfl⟩, fun _ => rfl, hframe⟩

/-! ## `RMD_BLOCK` (R169) -/

/-- Settles O42: the command's one write, to `RH` and `RLEN`. -/
theorem rmdBlockRule : Obligations.RmdBlockRule := by
  refine ⟨decodeOfEncode .rmdBlock rfl, fun s => ?_⟩
  refine ⟨_, rfl, finish_completed .ok 0 _, rfl, toNat_add_ofNat _ _, rfl, ⟨rfl, rfl, rfl⟩, ⟨rfl, fun _ => rfl⟩,
    fun _ => rfl, ?_⟩
  rw [sameOutsideHash_finish, sameOutsideHash_writeRmd]
  exact sameOutsideHash_refl s

/-! ## The padding (R165) -/

/-- Settles O43: with its length field of 8 bytes the padded tail fills its blocks of 64, so cutting it loses nothing. -/
theorem rmdPadRule : Obligations.RmdPadRule := by
  intro tail total htail
  have hfield : ∀ v, (leBytes 8 v).length = 8 := length_leBytes 8
  have hlf : 8 < rmdBlockLen := by decide
  exact ⟨⟨_, flatten_padBlocks hfield hlf htail total⟩, fun _ => length_of_mem_padBlocks hfield hlf htail total,
    length_padBlocks hfield hlf htail total⟩

/-! ## `RMD_FINAL` (R170) -/

/-- The chaining value that `RMD_FINAL` leaves in `RH`, for a tail of `n` bytes. -/
def closedRmd (n : Nat) (s : State) : RmdChain := rmdHash.close s.rh (msgBytes s n) ((s.rlen.toNat + n) % 2 ^ 64)

/-- The state in which `RMD_FINAL` has written `RH`, `RLEN` and `DIG`. -/
def writeRmdFinal (nbytes : BitVec 8) (s : State) : State :=
  let h := closedRmd nbytes.toNat s
  writeDigest (rmdDigest h) (writeRmd h (s.rlen + nbytes.setWidth 64) s)

section

variable {nbytes : BitVec 8} (s : State)

theorem exec_rmdFinal_of_le (h : rmdBlockLen ≤ nbytes.toNat) : exec (.rmdFinal nbytes) s = raiseError .param s := if_pos h

theorem exec_rmdFinal_of_lt (h : nbytes.toNat < rmdBlockLen) :
    exec (.rmdFinal nbytes) s = complete 0 (writeRmdFinal nbytes s) := by
  rw [writeRmdFinal, closedRmd, ← toNat_add_setWidth]
  exact if_neg (Nat.not_le.2 h)

end

/-- Settles O44: the length check fails, or the digest is written over the state with the closed chaining value. -/
theorem rmdFinalRule : Obligations.RmdFinalRule := by
  intro nbytes
  refine ⟨decodeOfEncode (.rmdFinal nbytes) rfl, fun s => ⟨fun hlong => ?_, fun hshort hwf => ?_⟩⟩
  · exact ⟨finish .param 0 s, exec_rmdFinal_of_le s hlong, finish_completed .param 0 s, finish_sameButStatus .param 0 s⟩
  · have hlen := length_rmdDigest (closedRmd nbytes.toNat s)
    have hfits : (rmdDigest (closedRmd nbytes.toNat s)).length ≤ 64 := hlen.trans_le (by decide)
    have hframe : SameOutsideHash s (finish .ok 0 (writeRmdFinal nbytes s)) := by
      rw [sameOutsideHash_finish, writeRmdFinal, sameOutsideHash_writeDigest, sameOutsideHash_writeRmd]
      exact sameOutsideHash_refl s
    exact ⟨finish .ok 0 (writeRmdFinal nbytes s), exec_rmdFinal_of_lt s hshort, finish_completed .ok 0 _, rfl,
      toNat_add_setWidth _ _, hlen, digestIs_writeDigest hwf hfits, writeDigest_sameBuffersButDigest hfits, rfl,
      ⟨rfl, rfl, rfl⟩, ⟨rfl, fun _ => rfl⟩, hframe⟩

/-! ## The whole message (R167) -/

section

variable {m0 : List Byte} {s t : State}

/-- With the initial value and a byte count of 0 the engine has read nothing. -/
theorem rmdHolds_nil (hrh : t.rh = rmdIv) (hrlen : t.rlen = 0) : RmdHolds [] t := ⟨Nat.zero_mod _, hrh, hrlen⟩

/-- Compressing a block and counting its bytes extends the message read by it. -/
theorem RmdHolds.append_block {blk : List Byte} (hholds : RmdHolds m0 s) (hblk : blk.length = rmdBlockLen)
    (hrh : t.rh = rmdCompress s.rh blk) (hrlen : t.rlen.toNat = (s.rlen.toNat + rmdBlockLen) % 2 ^ 64) :
    RmdHolds (m0 ++ blk) t := by
  obtain ⟨hwhole, hrun, hcount⟩ := hholds
  refine ⟨?_, ?_, BitVec.eq_of_toNat_eq ?_⟩
  · rw [List.length_append, hblk, Nat.add_mod_right, hwhole]
  · rw [hrh, hrun]
    exact (HashFn.running_append (f := rmdHash) hwhole (by decide) hblk).symm
  · rw [hrlen, hcount, List.length_append, hblk, BitVec.toNat_ofNat, BitVec.toNat_ofNat, Nat.mod_add_mod]

theorem length_msgBytes (s : State) (n : Nat) : (msgBytes s n).length = n := length_loadBytes _ _ _

/-- The padded tail closes the chaining value in `RH` to the hash of the message read and the tail. -/
theorem RmdHolds.digest_closedRmd {n : Nat} (hholds : RmdHolds m0 s) (hn : n < rmdBlockLen)
    (htotal : m0.length + n < 2 ^ 64) : rmdDigest (closedRmd n s) = hashOf .rmd160 (m0 ++ msgBytes s n) := by
  obtain ⟨hwhole, hrun, hcount⟩ := hholds
  have hlen := length_msgBytes s n
  have hhash := HashFn.hash_append (f := rmdHash) hwhole (hlen.trans_lt hn)
  rw [hlen] at hhash
  rw [closedRmd, hrun, hcount, BitVec.toNat_ofNat, Nat.mod_add_mod, Nat.mod_eq_of_lt htotal]
  exact hhash.symm

end

/-- Settles O45: the chaining value in `RH` is that of the message read, which a block extends and the padded tail closes. -/
theorem rmdStreamComputesHash : Obligations.RmdStreamComputesHash := by
  refine ⟨fun s => ?init, fun m0 s hholds => ?block, fun m0 nbytes s hholds hwf htail htotal => ?final⟩
  case init =>
    obtain ⟨t, ht, -, hrh, hrlen, -⟩ := rmdInitRule.2 s
    exact ⟨t, ht, rmdHolds_nil hrh hrlen⟩
  case block =>
    obtain ⟨t, ht, -, hrh, hrlen, -⟩ := rmdBlockRule.2 s
    exact ⟨t, ht, hholds.append_block (length_msgBytes s _) hrh hrlen⟩
  case final =>
    obtain ⟨t, ht, hdone, hrh, -, -, hdig, -⟩ := ((rmdFinalRule nbytes).2 s).2 htail hwf
    have hclosed : t.rh = closedRmd nbytes.toNat s := hrh
    rw [hclosed, hholds.digest_closedRmd htail htotal] at hdig
    exact ⟨t, ht, hdone, hdig⟩

end Sys2Proof.Machine

/-! The life of the HMAC controller (R187): what the commands and the host do to `HACT`, `HALG` and `HK0`, and that `HACT` gates
`HMAC_FINAL` alone. -/

namespace Sys2Proof.Machine

/-! ## What every outcome of a command satisfies -/

/-- If there is a next state, it has the property. -/
def EndsIn (P : State → Prop) (o : Result) : Prop := ∀ t, o = .next t → P t

section

variable {P : State → Prop} {s t : State} {o o' : Result}

theorem endsIn_complete {k : BitVec 2} (h : P (finish .ok k t)) : EndsIn P (complete k t) := by
  rintro u ⟨⟩
  exact h

theorem endsIn_raiseError {e : ErrCode} (h : P (finish e 0 t)) : EndsIn P (raiseError e t) := by
  rintro u ⟨⟩
  exact h

theorem endsIn_ite {p : Prop} [Decidable p] (h : EndsIn P o) (h' : EndsIn P o') : EndsIn P (if p then o else o') := by
  split_ifs
  · exact h
  · exact h'

theorem endsIn_withModulus (hzero : P (finish .modulus 0 s)) (h : EndsIn P o) : EndsIn P (withModulus s o) :=
  endsIn_ite (endsIn_raiseError hzero) h

end

/-! ## The controller's registers under every command -/

/-- `HACT`, `HALG` and every byte of `HK0` are unchanged. -/
def SameHmac (s t : State) : Prop := t.hact = s.hact ∧ SameKey s t

/-- The writes of a command that does not touch the controller leave it alone by definition. -/
theorem SameHmac.of_eq {s t : State} (hact : t.hact = s.hact) (halg : t.halg = s.halg) (hkey : t.hk0 = s.hk0) :
    SameHmac s t :=
  ⟨hact, halg, fun a => congrArg (readByte · a) hkey⟩

section

variable (s : State)

theorem sameHmac_completePoint (pd : PtIdx) : ∀ r : Except EcError Point, EndsIn (SameHmac s) (completePoint pd r s)
  | .error _ => endsIn_raiseError (.of_eq rfl rfl rfl)
  | .ok _ => endsIn_complete (.of_eq rfl rfl rfl)

theorem sameHmac_execModinv (rd ra rb : RegIdx) : EndsIn (SameHmac s) (execModinv rd ra rb s) := by
  refine endsIn_ite (endsIn_raiseError (.of_eq rfl rfl rfl)) ?_
  split
  · exact endsIn_raiseError (.of_eq rfl rfl rfl)
  · exact endsIn_complete (.of_eq rfl rfl rfl)

theorem sameHmac_execSqrtmod (rd rc ra rb : RegIdx) (rounds : BitVec 8) :
    EndsIn (SameHmac s) (execSqrtmod rd rc ra rb rounds s) := by
  refine endsIn_ite ?_ (endsIn_raiseError (.of_eq rfl rfl rfl))
  split
  · exact endsIn_raiseError (.of_eq rfl rfl rfl)
  · exact endsIn_complete (.of_eq rfl rfl rfl)
  · exact endsIn_complete (.of_eq rfl rfl rfl)
  · exact endsIn_complete (.of_eq rfl rfl rfl)
  · rintro t ⟨⟩

/-- The commands that start or finish an HMAC or start a plain hash; no other writes the controller's registers. -/
def writesHmac : Instr → Bool
  | .hmacInit .. | .hmacFinal _ | .shaInit _ | .rmdInit => true
  | _ => false

theorem sameHmac_exec : ∀ i : Instr, writesHmac i = false → EndsIn (SameHmac s) (exec i s)
  | .gcd .., _ => endsIn_complete (.of_eq rfl rfl rfl)
  | .egcd .., _ => endsIn_ite (endsIn_complete (.of_eq rfl rfl rfl)) (endsIn_raiseError (.of_eq rfl rfl rfl))
  | .modinv rd ra rb, _ => sameHmac_execModinv s rd ra rb
  | .sqrtmod rd rc ra rb rounds, _ => sameHmac_execSqrtmod s rd rc ra rb rounds
  | .shaBlock, _ => endsIn_complete (.of_eq rfl rfl rfl)
  | .shaFinal _, _ => endsIn_ite (endsIn_raiseError (.of_eq rfl rfl rfl)) (endsIn_complete (.of_eq rfl rfl rfl))
  | .rmdBlock, _ => endsIn_complete (.of_eq rfl rfl rfl)
  | .rmdFinal _, _ => endsIn_ite (endsIn_raiseError (.of_eq rfl rfl rfl)) (endsIn_complete (.of_eq rfl rfl rfl))
  | .ecOncurve _, _ => endsIn_withModulus (.of_eq rfl rfl rfl) (endsIn_complete (.of_eq rfl rfl rfl))
  | .ecAdd pd _ _, _ => endsIn_withModulus (.of_eq rfl rfl rfl) (sameHmac_completePoint s pd _)
  | .ecDbl pd _, _ => endsIn_withModulus (.of_eq rfl rfl rfl) (sameHmac_completePoint s pd _)
  | .ecMul pd _ _, _ => endsIn_withModulus (.of_eq rfl rfl rfl) (sameHmac_completePoint s pd _)
  | .ecNeg .., _ => endsIn_withModulus (.of_eq rfl rfl rfl) (endsIn_complete (.of_eq rfl rfl rfl))
  | .ecLdg _, _ => endsIn_complete (.of_eq rfl rfl rfl)
  | .hmacInit .., h | .hmacFinal _, h | .shaInit _, h | .rmdInit, h => nomatch h

end

/-! ## Starting and finishing (R184, R186) -/

section

variable (alg : Alg) (k0 : List Byte) (n : Nat) (s : State)

@[simp] theorem startInner_hact : (startInner alg k0 s).hact = s.hact := by cases alg <;> rfl

@[simp] theorem startInner_halg : (startInner alg k0 s).halg = s.halg := by cases alg <;> rfl

@[simp] theorem startInner_hk0 : (startInner alg k0 s).hk0 = s.hk0 := by cases alg <;> rfl

@[simp] theorem startInner_mem : (startInner alg k0 s).mem = s.mem := by cases alg <;> rfl

@[simp] theorem finishInner_hact : (finishInner alg n s).hact = false := by cases alg <;> rfl

@[simp] theorem finishInner_halg : (finishInner alg n s).halg = s.halg := by cases alg <;> rfl

@[simp] theorem finishInner_hk0 : (finishInner alg n s).hk0 = s.hk0 := by cases alg <;> rfl

theorem finishInner_sameKey : SameKey s (finishInner alg n s) :=
  ⟨finishInner_halg alg n s, fun a => congrArg (readByte · a) (finishInner_hk0 alg n s)⟩

end

theorem hact_of_hmacInit (alg : Alg) (klen : BitVec 8) (s : State) :
    EndsIn (fun t => t.err = .ok → t.hact = true) (exec (.hmacInit alg klen) s) :=
  endsIn_ite (endsIn_raiseError nofun) (endsIn_complete fun _ => startInner_hact alg _ _)

theorem hact_of_hmacFinal (nbytes : BitVec 8) (s : State) :
    EndsIn (fun t => t.err = .ok → t.hact = false) (exec (.hmacFinal nbytes) s) :=
  endsIn_ite (endsIn_raiseError nofun)
    (endsIn_ite (endsIn_raiseError nofun) (endsIn_complete fun _ => finishInner_hact _ _ _))

/-- Only `HMAC_INIT` writes `HALG` and `HK0`. -/
theorem sameKey_exec (s : State) : ∀ i : Instr, (∀ alg klen, i ≠ .hmacInit alg klen) → EndsIn (SameKey s) (exec i s)
  | .hmacInit alg klen, h => absurd rfl (h alg klen)
  | .hmacFinal _, _ =>
    endsIn_ite (endsIn_raiseError ⟨rfl, fun _ => rfl⟩)
      (endsIn_ite (endsIn_raiseError ⟨rfl, fun _ => rfl⟩) (endsIn_complete (finishInner_sameKey _ _ s)))
  | .shaInit _, _ => endsIn_complete ⟨rfl, fun _ => rfl⟩
  | .rmdInit, _ => endsIn_complete ⟨rfl, fun _ => rfl⟩
  | .gcd .., _ | .egcd .., _ | .modinv .., _ | .sqrtmod .., _ | .shaBlock, _ | .shaFinal _, _ | .rmdBlock, _
  | .rmdFinal _, _ | .ecOncurve _, _ | .ecAdd .., _ | .ecDbl .., _ | .ecMul .., _ | .ecNeg .., _ | .ecLdg _, _ =>
    fun t ht => (sameHmac_exec s _ rfl t ht).2

/-! ## The controller's registers under host writes -/

theorem sameHmac_writeLoc (v : Word) (s : State) : ∀ {loc : Loc}, loc ≠ .ctrl → SameHmac s (writeLoc v s loc)
  | .ctrl, h => absurd rfl h
  | .status, _ => by
    rw [writeLoc, writeStatus_eq]
    exact .of_eq rfl rfl rfl
  | .curve c _, _ => by cases c <;> exact .of_eq rfl rfl rfl
  | .id, _ | .config, _ | .cmd, _ | .fault, _ | .buffer _, _ | .digest _, _ | .sh .., _ | .slen _, _ | .smode, _
  | .rh _, _ | .rlen _, _ | .reg .., _ | .ptX .., _ | .ptY .., _ | .ptInf _, _ => .of_eq rfl rfl rfl

/-- Of the host's writes only a soft reset reaches the controller: it stores no word of the window. -/
theorem sameHmac_memWrite (idx : WordIdx) (v : Word) (s : State) :
    SameHmac s (memWrite idx v s) ∨ (idx = 4 ∧ v.getLsbD 0 = true) := by
  rcases memWrite_cases idx v s with
    ⟨-, heq⟩ | ⟨hctrl, heq⟩ | ⟨loc, -, -, -, heq⟩ | ⟨loc, -, hne, -, heq⟩ <;> rw [heq]
  · exact .inl (.of_eq rfl rfl rfl)
  · cases hreset : v.getLsbD 0 with
    | true => exact .inr ⟨idx_of_locate_ctrl hctrl, rfl⟩
    | false =>
      rw [writeCtrl_of_no_reset hreset]
      exact .inl (.of_eq rfl rfl rfl)
  · exact .inl (.of_eq rfl rfl rfl)
  · exact .inl (sameHmac_writeLoc v s hne)

/-! ## `HACT` gates `HMAC_FINAL` alone -/

/-- The two states differ in `HACT` at most. -/
def SameButHact (t t' : State) : Prop := t' = { t with hact := t'.hact }

theorem sameButHact_set (s : State) (b : Bool) : SameButHact s { s with hact := b } := rfl

/-- If the first outcome is a next state, so is the second, and the two states differ in `HACT` at most. -/
def EndsAlike (o o' : Result) : Prop := ∀ t, o = .next t → ∃ t', o' = .next t' ∧ SameButHact t t'

section

variable {t t' : State} {o o' p p' : Result}

theorem endsAlike_complete {k : BitVec 2} (h : SameButHact t t') : EndsAlike (complete k t) (complete k t') := by
  rintro u ⟨⟩
  exact ⟨_, rfl, congrArg (finish .ok k) h⟩

theorem endsAlike_raiseError {e : ErrCode} (h : SameButHact t t') : EndsAlike (raiseError e t) (raiseError e t') := by
  rintro u ⟨⟩
  exact ⟨_, rfl, congrArg (finish e 0) h⟩

theorem endsAlike_ite {c : Prop} [Decidable c] (h : EndsAlike o o') (h' : EndsAlike p p') :
    EndsAlike (if c then o else p) (if c then o' else p') := by
  split_ifs
  · exact h
  · exact h'

theorem endsAlike_completePoint (pd : PtIdx) (h : SameButHact t t') : ∀ r : Except EcError Point,
    EndsAlike (completePoint pd r t) (completePoint pd r t')
  | .error _ => endsAlike_raiseError h
  | .ok p => endsAlike_complete (congrArg (writePoint pd p) h)

theorem endsAlike_endSqrtmod (rd rc : RegIdx) (h : SameButHact t t') : ∀ r : SqrtResult,
    EndsAlike (endSqrtmod rd rc t r) (endSqrtmod rd rc t' r)
  | .badModulus => endsAlike_raiseError h
  | .noRoot => endsAlike_complete h
  | .zeroRoot => endsAlike_complete (congrArg (writeReg rd 0) h)
  | .twoRoots r1 r2 => endsAlike_complete (congrArg (fun u => writeReg rc r2 (writeReg rd r1 u)) h)
  | .unspecified => by rintro u ⟨⟩

end

section

variable (s : State) (b : Bool)

theorem endsAlike_execModinv (rd ra rb : RegIdx) :
    EndsAlike (exec (.modinv rd ra rb) s) (exec (.modinv rd ra rb) { s with hact := b }) := by
  by_cases hz : readReg s rb = 0
  · rw [exec_modinv_of_zero hz, exec_modinv_of_zero (s := { s with hact := b }) hz]
    exact endsAlike_raiseError rfl
  · cases hinv : modInverse (readReg s ra) (readReg s rb) with
    | none =>
      rw [exec_modinv_of_none hz hinv, exec_modinv_of_none (s := { s with hact := b }) hz hinv]
      exact endsAlike_raiseError rfl
    | some y =>
      rw [exec_modinv_of_some hz hinv, exec_modinv_of_some (s := { s with hact := b }) hz hinv]
      exact endsAlike_complete rfl

theorem endsAlike_execSqrtmod (rd rc ra rb : RegIdx) (rounds : BitVec 8) :
    EndsAlike (exec (.sqrtmod rd rc ra rb rounds) s) (exec (.sqrtmod rd rc ra rb rounds) { s with hact := b }) := by
  by_cases hdist : rd ≠ rc
  · rw [exec_sqrtmod hdist, exec_sqrtmod hdist]
    exact endsAlike_endSqrtmod rd rc (sameButHact_set _ b) (sqrtModOf ra rb rounds s).1
  · rw [exec_sqrtmod_of_coinciding hdist, exec_sqrtmod_of_coinciding hdist]
    exact endsAlike_raiseError rfl

theorem sameButHact_startInner (alg : Alg) (k0 : List Byte) {t t' : State} (h : SameButHact t t') :
    SameButHact (startInner alg k0 t) (startInner alg k0 t') := by
  rw [h]
  cases alg <;> rfl

/-- No command but `HMAC_FINAL` reads `HACT` (R187). -/
theorem endsAlike_exec : ∀ i : Instr, (∀ nbytes, i ≠ .hmacFinal nbytes) →
    EndsAlike (exec i s) (exec i { s with hact := b })
  | .gcd .., _ => endsAlike_complete rfl
  | .egcd .., _ => endsAlike_ite (endsAlike_complete rfl) (endsAlike_raiseError rfl)
  | .modinv rd ra rb, _ => endsAlike_execModinv s b rd ra rb
  | .sqrtmod rd rc ra rb rounds, _ => endsAlike_execSqrtmod s b rd rc ra rb rounds
  | .shaInit _, _ => endsAlike_complete rfl
  | .shaBlock, _ => endsAlike_complete rfl
  | .shaFinal _, _ => endsAlike_ite (endsAlike_raiseError rfl) (endsAlike_complete rfl)
  | .rmdInit, _ => endsAlike_complete rfl
  | .rmdBlock, _ => endsAlike_complete rfl
  | .rmdFinal _, _ => endsAlike_ite (endsAlike_raiseError rfl) (endsAlike_complete rfl)
  | .hmacInit alg _, _ =>
    endsAlike_ite (endsAlike_raiseError rfl) (endsAlike_complete (sameButHact_startInner alg _ rfl))
  | .hmacFinal nbytes, h => absurd rfl (h nbytes)
  | .ecOncurve _, _ => endsAlike_ite (endsAlike_raiseError rfl) (endsAlike_complete rfl)
  | .ecAdd pd pa pb, _ =>
    endsAlike_ite (endsAlike_raiseError rfl)
      (endsAlike_completePoint pd (sameButHact_set s b) (ecAdd (curveOf s) (readPoint s pa) (readPoint s pb)))
  | .ecDbl pd pa, _ =>
    endsAlike_ite (endsAlike_raiseError rfl)
      (endsAlike_completePoint pd (sameButHact_set s b) (ecDouble (curveOf s) (readPoint s pa)))
  | .ecMul pd pa rk, _ =>
    endsAlike_ite (endsAlike_raiseError rfl)
      (endsAlike_completePoint pd (sameButHact_set s b) (ecMul (curveOf s) (readReg s rk) (readPoint s pa)))
  | .ecNeg .., _ => endsAlike_ite (endsAlike_raiseError rfl) (endsAlike_complete rfl)
  | .ecLdg _, _ => endsAlike_complete rfl

end

/-- Settles O9: the four commands that write the controller's registers are followed one by one; every other command and every
host write but a soft reset leaves them alone, and the outcome of a command that does not read `HACT` is the same for both of
its values. -/
theorem hactLife : Obligations.HactLife := by
  refine ⟨rfl, hact_of_hmacInit, hact_of_hmacFinal, fun m s => ?shaInit, fun s => ?rmdInit,
    fun i s t ht hinit hfinal hsha hrmd => ?other, fun i s t ht hinit => sameKey_exec s i hinit t ht,
    fun idx v s => ?host, fun i s t b ht hfinal => endsAlike_exec s b i hfinal t ht⟩
  case shaInit => exact endsIn_complete (P := fun t => t.hact = false) rfl
  case rmdInit => exact endsIn_complete (P := fun t => t.hact = false) rfl
  case other =>
    have hi : writesHmac i = false := by
      cases i with
      | hmacInit alg klen => exact absurd rfl (hinit alg klen)
      | hmacFinal nbytes => exact absurd rfl (hfinal nbytes)
      | shaInit m => exact absurd rfl (hsha m)
      | rmdInit => exact absurd rfl hrmd
      | _ => rfl
    exact (sameHmac_exec s i hi t ht).1
  case host => exact sameHmac_memWrite idx v s

end Sys2Proof.Machine

/-! The HMAC controller (43_hmac.md): the block key, its two commands, and that with the block commands between them they compute
the HMAC of R182. -/

namespace Sys2Proof.Machine

/-! ## The block key (R183) -/

section

variable {α : Type} {f : HashFn α} {key : List Byte}

theorem HashFn.blockKey_of_le (h : key.length ≤ f.blockLen) :
    f.blockKey key = key ++ zeroBytes (f.blockLen - key.length) := by
  rw [blockKey, if_neg (Nat.not_lt.2 h)]

theorem HashFn.blockKey_of_lt (h : f.blockLen < key.length) :
    f.blockKey key = f.hash key ++ zeroBytes (f.blockLen - (f.hash key).length) := by
  rw [blockKey, if_pos h]

end

/-- Settles O46: the two branches of `BlockKey`, for the hash that `alg` names. -/
theorem blockKeyRule : Obligations.BlockKeyRule := by
  intro alg key
  refine ⟨length_blockKeyOf alg key, ?_⟩
  cases alg with
  | sha m => exact ⟨HashFn.blockKey_of_le, HashFn.blockKey_of_lt⟩
  | rmd160 => exact ⟨HashFn.blockKey_of_le, HashFn.blockKey_of_lt⟩

/-! ## The word of `HMAC_INIT` (R184) -/

/-- A word that passes its row's mask test but whose fields name no command is refused by its operands (R90). -/
theorem decode_of_operands_none {w : Word} {row : OpRow} (hrow : rowOf (w.extractLsb' 0 8) = some row)
    (hmask : w &&& row.mask = row.pattern) (hops : row.operands w = none) : decode w = .error .badOperands := by
  simp [decode, hrow, hmask, hops]

/-- The word of `HMAC_INIT` with the number `n` in its field `alg`, legal or not. -/
def hmacInitWord (n : Nat) (klen : BitVec 8) : Word := 0x40#32 ||| placed n 8 ||| placed klen.toNat 16

/-- The codes 5 to 7 of `alg` are reserved (R82). -/
theorem decode_hmacInitWord_of_reserved {n : Nat} (klen : BitVec 8) (hlo : 4 < n) (hhi : n < 2 ^ 3) :
    decode (hmacInitWord n klen) = .error .badOperands := by
  have hop : (hmacInitWord n klen).extractLsb' 0 8 = 0x40#8 := by
    simp [hmacInitWord, Laws.low_or, Laws.low_placed]
  have hcode : fieldAt (hmacInitWord n klen) 8 3 = n :=
    fieldAt_eq_of_field hhi (by simp [hmacInitWord, BitVec.extractLsb'_or])
  refine decode_of_operands_none ((congrArg rowOf hop).trans rfl) ?_ ?_
  · simp [hmacInitWord, BitVec.and_or_distrib_right, placed_and_of_unmasked hhi]
  · simp [hcode, algOfCode_eq_none_iff.2 hlo]

/-! ## `HMAC_INIT` (R184) -/

theorem readByte_latch (bs : List Byte) (i : Nat) : readByte (storeBytes [] 0 bs) i = bs.getD i 0 := by
  rcases lt_or_ge i bs.length with hi | hi
  · simpa using readByte_storeBytes_inside bs [] 0 i rfl hi
  · rw [readByte_storeBytes_outside bs [] 0 (.inr (by simpa using hi)), List.getD_eq_default _ _ hi]
    rfl

section

variable {alg : Alg} {klen : BitVec 8} (k0 : List Byte) {s t : State}

/-- The state in which `HMAC_INIT` has latched the block key and compressed the inner pad. -/
def writeHmacInit (alg : Alg) (klen : BitVec 8) (s : State) : State :=
  let k0 := blockKeyOf alg (keyBytes s klen.toNat)
  startInner alg k0 (openHmac alg k0 s)

theorem exec_hmacInit_of_lt (h : 128 < klen.toNat) : exec (.hmacInit alg klen) s = raiseError .param s := if_pos h

theorem exec_hmacInit_of_le (h : klen.toNat ≤ 128) :
    exec (.hmacInit alg klen) s = complete 0 (writeHmacInit alg klen s) := if_neg (Nat.not_lt.2 h)

theorem sameOutsideHash_openHmac : SameOutsideHash s (openHmac alg k0 t) ↔ SameOutsideHash s t := Iff.rfl

theorem sameOutsideHash_startInner : SameOutsideHash s (startInner alg k0 t) ↔ SameOutsideHash s t := by
  cases alg <;> exact Iff.rfl

end

theorem sameOutsideHash_writeHmacInit (alg : Alg) (klen : BitVec 8) (s : State) :
    SameOutsideHash s (writeHmacInit alg klen s) := by
  rw [writeHmacInit, sameOutsideHash_startInner, sameOutsideHash_openHmac]
  exact sameOutsideHash_refl s

theorem writeHmacInit_hk0 (alg : Alg) (klen : BitVec 8) (s : State) :
    (writeHmacInit alg klen s).hk0 = storeBytes [] 0 (blockKeyOf alg (keyBytes s klen.toNat)) :=
  startInner_hk0 alg _ _

/-- Settles O47: the length check fails, or the latch is written and then the engine that `alg` selects. -/
theorem hmacInitRule : Obligations.HmacInitRule := by
  refine ⟨fun n klen hlo hhi => decode_hmacInitWord_of_reserved klen hlo hhi, fun alg klen => ?_⟩
  refine ⟨decodeOfEncode (.hmacInit alg klen) rfl, fun s => ⟨fun hlong => ?_, fun hfits => ?_⟩⟩
  · exact ⟨finish .param 0 s, exec_hmacInit_of_lt hlong, finish_completed .param 0 s, finish_sameButStatus .param 0 s⟩
  · have hlatch : ∀ i, i < 128 → readByte (writeHmacInit alg klen s).hk0 i =
        (blockKeyOf alg (keyBytes s klen.toNat)).getD i 0 := by
      intro i _
      rw [writeHmacInit_hk0, readByte_latch]
    have hbuf : SameBuffers s (writeHmacInit alg klen s) := fun a => congrArg (readByte · a) (startInner_mem alg _ _)
    refine ⟨finish .ok 0 (writeHmacInit alg klen s), exec_hmacInit_of_le hfits, finish_completed .ok 0 _,
      startInner_hact alg _ _, startInner_halg alg _ _, hlatch, ?sha, ?rmd, hbuf,
      sameOutsideHash_writeHmacInit alg klen s⟩
    case sha =>
      rintro m rfl
      exact ⟨rfl, rfl, rfl, rfl, rfl⟩
    case rmd =>
      rintro rfl
      exact ⟨rfl, rfl, rfl, rfl, rfl⟩

/-! ## `HMAC_FINAL` (R186) -/

section

variable {nbytes : BitVec 8} {s : State}

theorem exec_hmacFinal_of_closed (h : s.hact = false) : exec (.hmacFinal nbytes) s = raiseError .seq s := by
  simp [exec, execHmacFinal, h]

theorem exec_hmacFinal_of_le (h : s.hact = true) (hlen : algBlockLen s.halg ≤ nbytes.toNat) :
    exec (.hmacFinal nbytes) s = raiseError .param s := by
  simp [exec, execHmacFinal, h, hlen]

theorem exec_hmacFinal_of_lt (h : s.hact = true) (hlen : nbytes.toNat < algBlockLen s.halg) :
    exec (.hmacFinal nbytes) s = complete 0 (finishInner s.halg nbytes.toNat s) := by
  simp [exec, execHmacFinal, h, Nat.not_le.2 hlen]

end

theorem finishHmac_eq {α : Type} (f : HashFn α) (h : α) (len : DWord) (tail k0 : List Byte) :
    finishHmac f h len tail k0 = f.outer k0 (f.digest (f.close h tail ((len.toNat + tail.length) % 2 ^ 64))) := by
  rw [finishHmac, toNat_add_ofNat]

/-- The chaining value that `HMAC_FINAL` leaves in `SH` when it works in mode `m`, for a tail of `n` bytes. -/
def finishedSha (m : ShaMode) (n : Nat) (s : State) : ShaChain :=
  finishHmac (shaHash m) s.sh s.slen (msgBytes s n) (latchedKey s (shaBlockLen m))

/-- The chaining value that `HMAC_FINAL` leaves in `RH` when it works with RIPEMD-160. -/
def finishedRmd (n : Nat) (s : State) : RmdChain :=
  finishHmac rmdHash s.rh s.rlen (msgBytes s n) (latchedKey s rmdBlockLen)

theorem finishInner_sha (m : ShaMode) (n : Nat) (s : State) : finishInner (.sha m) n s =
    closeHmac (writeDigest (shaDigest m (finishedSha m n s))
      (writeSha (finishedSha m n s) (BitVec.ofNat 64 (shaBlockLen m + shaDigestLen m)) (writeShaMode m s))) := rfl

theorem finishInner_rmd (n : Nat) (s : State) : finishInner .rmd160 n s =
    closeHmac (writeDigest (rmdDigest (finishedRmd n s)) (writeRmd (finishedRmd n s) 84 s)) := rfl

/-- The inner digest is a tail that leaves room for the padding, so the outer hash ends with one block. -/
theorem shaDigestLen_le_room (m : ShaMode) : shaDigestLen m ≤ shaBlockLen m - shaLengthLen m - 1 := by cases m <;> decide

theorem shaDigestLen_lt_blockLen (m : ShaMode) : shaDigestLen m < shaBlockLen m := by cases m <;> decide

theorem length_shaPad_digest (m : ShaMode) (h : ShaChain) (total : Nat) : (shaPad m (shaDigest m h) total).length = 1 := by
  have hlen := length_shaDigest m h
  obtain ⟨-, -, hcount⟩ := shaPadRule m (shaDigest m h) total (hlen.trans_lt (shaDigestLen_lt_blockLen m))
  rw [hcount, if_pos (hlen.trans_le (shaDigestLen_le_room m))]

theorem length_rmdPad_digest (h : RmdChain) (total : Nat) : (rmdPad (rmdDigest h) total).length = 1 := by
  have hlen := length_rmdDigest h
  obtain ⟨-, -, hcount⟩ := rmdPadRule (rmdDigest h) total (by omega)
  rw [hcount, if_pos (by omega)]

section

variable (n : Nat) {s : State}

theorem digestIs_finishInner_sha (m : ShaMode) (hwf : Memory.wf s.mem = true) :
    DigestIs (shaDigest m (finishedSha m n s)) (finishInner (.sha m) n s) :=
  digestIs_writeDigest (s := writeSha (finishedSha m n s) _ (writeShaMode m s)) hwf
    ((length_shaDigest m _).trans_le (shaDigestLen_le m))

theorem digestIs_finishInner_rmd (hwf : Memory.wf s.mem = true) :
    DigestIs (rmdDigest (finishedRmd n s)) (finishInner .rmd160 n s) :=
  digestIs_writeDigest (s := writeRmd (finishedRmd n s) _ s) hwf ((length_rmdDigest _).trans_le (by decide))

end

theorem finishInner_sameBuffersButDigest (alg : Alg) (n : Nat) (s : State) :
    SameBuffersButDigest s (finishInner alg n s) := by
  obtain ⟨-, hbuf, -⟩ := keeps_finishInner alg n (KeepsHostRegisters.refl s)
  exact hbuf

theorem sameOutsideHash_finishInner (alg : Alg) (n : Nat) (s : State) : SameOutsideHash s (finishInner alg n s) := by
  cases alg with
  | sha m =>
    rw [finishInner_sha, sameOutsideHash_closeHmac, sameOutsideHash_writeDigest, sameOutsideHash_writeSha,
      sameOutsideHash_writeShaMode]
    exact sameOutsideHash_refl s
  | rmd160 =>
    rw [finishInner_rmd, sameOutsideHash_closeHmac, sameOutsideHash_writeDigest, sameOutsideHash_writeRmd]
    exact sameOutsideHash_refl s

/-- Settles O48: the two checks fail one after the other, or the engine that `HALG` selects finishes both hashes. -/
theorem hmacFinalRule : Obligations.HmacFinalRule := by
  intro nbytes
  refine ⟨decodeOfEncode (.hmacFinal nbytes) rfl, fun s => ⟨fun hclosed => ?_, fun hopen hlong => ?_,
    fun hopen hshort hwf => ?_⟩⟩
  · exact ⟨finish .seq 0 s, exec_hmacFinal_of_closed hclosed, finish_completed .seq 0 s, finish_sameButStatus .seq 0 s⟩
  · exact ⟨finish .param 0 s, exec_hmacFinal_of_le hopen hlong, finish_completed .param 0 s,
      finish_sameButStatus .param 0 s⟩
  · have hn : (msgBytes s nbytes.toNat).length = nbytes.toNat := length_msgBytes s _
    refine ⟨finish .ok 0 (finishInner s.halg nbytes.toNat s), exec_hmacFinal_of_lt hopen hshort, finish_completed .ok 0 _,
      finishInner_hact _ _ s, finishInner_sameKey _ _ s, ?sha, ?rmd, finishInner_sameBuffersButDigest _ _ s,
      sameOutsideHash_finishInner _ _ s⟩
    case sha =>
      intro m hm
      have hsh : finishedSha m nbytes.toNat s = _ := finishHmac_eq (shaHash m) _ _ _ _
      rw [hn] at hsh
      rw [hm]
      exact ⟨_, rfl, hsh, length_shaPad_digest m _ _, digestIs_finishInner_sha _ m hwf,
        by simp [finishInner_sha, SameRmd]⟩
    case rmd =>
      intro hrmd
      have hrh : finishedRmd nbytes.toNat s = _ := finishHmac_eq rmdHash _ _ _ _
      rw [hn] at hrh
      rw [hrmd]
      exact ⟨_, rfl, hrh, length_rmdPad_digest _ _, digestIs_finishInner_rmd _ hwf, by simp [finishInner_rmd, SameSha]⟩

/-! ## The whole message (R182, R185) -/

section

variable {α : Type} {f : HashFn α}

/-- The chaining value of a message of one block. -/
theorem HashFn.running_block {blk : List Byte} (hpos : 0 < f.blockLen) (hblk : blk.length = f.blockLen) :
    f.running blk = f.compress f.iv blk := by
  have hnil : f.running [] = f.iv := by rw [running, List.length_nil, Nat.zero_div]; rfl
  rw [← hnil]
  exact running_append (m0 := []) (Nat.zero_mod _) hpos hblk

theorem length_xorBytes (pad : Byte) (bs : List Byte) : (xorBytes pad bs).length = bs.length := List.length_map _

theorem HashFn.length_hash (hdigest : ∀ h, (f.digest h).length = f.digestLen) (msg : List Byte) :
    (f.hash msg).length = f.digestLen := hdigest _

/-- The outer hash is that of the outer pad block and the inner digest. -/
theorem HashFn.digest_outer {k0 inner : List Byte} (hk0 : k0.length = f.blockLen) (hinner : inner.length = f.digestLen)
    (hlt : f.digestLen < f.blockLen) : f.digest (f.outer k0 inner) = f.hash (xorBytes opad k0 ++ inner) := by
  have hpad : (xorBytes opad k0).length = f.blockLen := (length_xorBytes opad k0).trans hk0
  rw [hash_append (by rw [hpad, Nat.mod_self]) (hinner.trans_lt hlt), running_block (Nat.zero_lt_of_lt hlt) hpad, hpad,
    hinner]
  rfl

/-- From the chaining value of the inner pad block and the full blocks of the message, finishing gives the HMAC (R182). -/
theorem HashFn.digest_finishHmac (hdigest : ∀ h, (f.digest h).length = f.digestLen) (hlt : f.digestLen < f.blockLen)
    {key m0 tail read : List Byte} (hread : read = xorBytes ipad (f.blockKey key) ++ m0)
    (hwhole : read.length % f.blockLen = 0) (htail : tail.length < f.blockLen)
    (htotal : f.blockLen + m0.length + tail.length < 2 ^ 64) :
    f.digest (finishHmac f (f.running read) (BitVec.ofNat 64 read.length) tail (f.blockKey key)) =
      f.hmac key (m0 ++ tail) := by
  have hk0 : (f.blockKey key).length = f.blockLen := length_blockKey (fun h => (hdigest h).trans_le hlt.le) key
  have hlen : read.length = f.blockLen + m0.length := by rw [hread, List.length_append, length_xorBytes, hk0]
  have hcount : ((BitVec.ofNat 64 read.length).toNat + tail.length) % 2 ^ 64 = read.length + tail.length := by
    rw [BitVec.toNat_ofNat, Nat.mod_add_mod, hlen, Nat.mod_eq_of_lt htotal]
  calc f.digest (finishHmac f (f.running read) (BitVec.ofNat 64 read.length) tail (f.blockKey key))
      = f.digest (f.outer (f.blockKey key) (f.hash (read ++ tail))) := by
        rw [finishHmac_eq, hcount, hash_append hwhole htail]
    _ = f.hash (xorBytes opad (f.blockKey key) ++ f.hash (read ++ tail)) :=
        digest_outer hk0 (length_hash hdigest _) hlt
    _ = f.hmac key (m0 ++ tail) := by
        rw [hread, List.append_assoc]
        rfl

end

/-! The engine that the HMAC selected, after one block of the inner pad, after a block of the message, and at the end. -/

section

variable {key m0 blk : List Byte} {s t : State} {n : Nat}

theorem shaHolds_block {m : ShaMode} (hblk : blk.length = shaBlockLen m) (hmode : t.smode = m)
    (hsh : t.sh = shaCompress m (shaIv m) blk) (hslen : t.slen = BitVec.ofNat 64 (shaBlockLen m)) : ShaHolds m blk t :=
  ⟨hmode, by rw [hblk, Nat.mod_self], hsh.trans (HashFn.running_block (f := shaHash m) (shaBlockLen_pos m) hblk).symm,
    by rw [hslen, hblk]⟩

theorem rmdHolds_block (hblk : blk.length = rmdBlockLen) (hrh : t.rh = rmdCompress rmdIv blk) (hrlen : t.rlen = 64) :
    RmdHolds blk t :=
  ⟨by rw [hblk, Nat.mod_self], hrh.trans (HashFn.running_block (f := rmdHash) (by decide) hblk).symm,
    by rw [hrlen, hblk]; rfl⟩

theorem digest_finishedSha {m : ShaMode} (hkey : latchedKey s (shaBlockLen m) = (shaHash m).blockKey key)
    (hholds : ShaHolds m (xorBytes ipad ((shaHash m).blockKey key) ++ m0) s) (hn : n < shaBlockLen m)
    (htotal : shaBlockLen m + m0.length + n < 2 ^ 64) :
    shaDigest m (finishedSha m n s) = (shaHash m).hmac key (m0 ++ msgBytes s n) := by
  obtain ⟨-, hwhole, hrun, hcount⟩ := hholds
  have hlen := length_msgBytes s n
  rw [finishedSha, hrun, hcount, hkey]
  exact HashFn.digest_finishHmac (f := shaHash m) (length_shaDigest m) (shaDigestLen_lt_blockLen m) rfl hwhole
    (hlen.trans_lt hn) (hlen.symm ▸ htotal)

theorem digest_finishedRmd (hkey : latchedKey s rmdBlockLen = rmdHash.blockKey key)
    (hholds : RmdHolds (xorBytes ipad (rmdHash.blockKey key) ++ m0) s) (hn : n < rmdBlockLen)
    (htotal : rmdBlockLen + m0.length + n < 2 ^ 64) :
    rmdDigest (finishedRmd n s) = rmdHash.hmac key (m0 ++ msgBytes s n) := by
  obtain ⟨hwhole, hrun, hcount⟩ := hholds
  have hlen := length_msgBytes s n
  rw [finishedRmd, hrun, hcount, hkey]
  exact HashFn.digest_finishHmac (f := rmdHash) length_rmdDigest (by decide) rfl hwhole (hlen.trans_lt hn)
    (hlen.symm ▸ htotal)

end

/-- A memory that holds a string byte by byte gives it back when it is loaded. -/
theorem loadBytes_eq {m : Memory} {bs : List Byte} {base : Nat}
    (h : ∀ i, i < bs.length → readByte m (base + i) = bs.getD i 0) : loadBytes m base bs.length = bs := by
  refine List.ext_getElem (length_loadBytes m _ base) fun i hi hi' => ?_
  rw [← List.getD_eq_getElem _ 0 hi, ← List.getD_eq_getElem _ 0 hi', getD_loadBytes m base hi', h i hi']

/-- An HMAC is open, with its block key in the latch (R184). -/
def OpenHmac (alg : Alg) (key : List Byte) (s : State) : Prop :=
  s.hact = true ∧ s.halg = alg ∧ latchedKey s (algBlockLen alg) = blockKeyOf alg key

section

variable {alg : Alg} {key m0 : List Byte} {s t : State}

theorem OpenHmac.of_sameHmac (hopen : OpenHmac alg key s) (hsame : SameHmac s t) : OpenHmac alg key t := by
  obtain ⟨hact, halg, hkey⟩ := hopen
  obtain ⟨hact', halg', hlatch⟩ := hsame
  exact ⟨hact'.trans hact, halg'.trans halg, (loadBytes_congr fun k _ => hlatch (0 + k)).trans hkey⟩

theorem hmacHolds_sha_iff {m : ShaMode} : HmacHolds (.sha m) key m0 s ↔
    OpenHmac (.sha m) key s ∧ ShaHolds m (xorBytes ipad (blockKeyOf (.sha m) key) ++ m0) s := by
  simp only [HmacHolds, OpenHmac, and_assoc]

theorem hmacHolds_rmd_iff : HmacHolds .rmd160 key m0 s ↔
    OpenHmac .rmd160 key s ∧ RmdHolds (xorBytes ipad (blockKeyOf .rmd160 key) ++ m0) s := by
  simp only [HmacHolds, OpenHmac, and_assoc]

/-- The latch of `HMAC_INIT` begins with the block key, which fits it. -/
theorem openHmac_of_latch (hact : t.hact = true) (halg : t.halg = alg)
    (hlatch : ∀ i, i < 128 → readByte t.hk0 i = (blockKeyOf alg key).getD i 0) : OpenHmac alg key t := by
  have hlen := length_blockKeyOf alg key
  refine ⟨hact, halg, ?_⟩
  rw [latchedKey, ← hlen]
  refine loadBytes_eq fun i hi => ?_
  rw [Nat.zero_add]
  exact hlatch i (hi.trans_le (hlen.trans_le (algBlockLen_le alg)))

end

/-- Settles O49: the engine's chaining value is that of the inner pad block and the message read; `HMAC_INIT` makes it so for
the empty message, a block command extends it, and `HMAC_FINAL` closes it to the inner hash and hashes that again. -/
theorem hmacStreamComputesHmac : Obligations.HmacStreamComputesHmac := by
  refine ⟨fun alg klen s hklen => ?init, fun m key m0 s hholds => ?shaBlock, fun key m0 s hholds => ?rmdBlock,
    fun alg key m0 nbytes s hholds hwf hn htotal => ?final⟩
  case init =>
    obtain ⟨t, ht, -, hact, halg, hlatch, hsha, hrmd, -⟩ := ((hmacInitRule.2 alg klen).2 s).2 hklen
    have hopen := openHmac_of_latch hact halg hlatch
    have hpad := (length_xorBytes ipad _).trans (length_blockKeyOf alg (keyBytes s klen.toNat))
    refine ⟨t, ht, ?_⟩
    cases alg with
    | sha m =>
      obtain ⟨hmode, hslen, hsh, -⟩ := hsha m rfl
      rw [hmacHolds_sha_iff, List.append_nil]
      exact ⟨hopen, shaHolds_block hpad hmode hsh hslen⟩
    | rmd160 =>
      obtain ⟨hrlen, hrh, -⟩ := hrmd rfl
      rw [hmacHolds_rmd_iff, List.append_nil]
      exact ⟨hopen, rmdHolds_block hpad hrh hrlen⟩
  case shaBlock =>
    obtain ⟨hopen, hread⟩ := hmacHolds_sha_iff.1 hholds
    obtain ⟨-, hblock, -⟩ := shaStreamComputesHash
    obtain ⟨t, ht, hread'⟩ := hblock m _ s hread
    rw [List.append_assoc] at hread'
    exact ⟨t, ht, hmacHolds_sha_iff.2 ⟨hopen.of_sameHmac (sameHmac_exec s .shaBlock rfl t ht), hread'⟩⟩
  case rmdBlock =>
    obtain ⟨hopen, hread⟩ := hmacHolds_rmd_iff.1 hholds
    obtain ⟨-, hblock, -⟩ := rmdStreamComputesHash
    obtain ⟨t, ht, hread'⟩ := hblock _ s hread
    rw [List.append_assoc] at hread'
    exact ⟨t, ht, hmacHolds_rmd_iff.2 ⟨hopen.of_sameHmac (sameHmac_exec s .rmdBlock rfl t ht), hread'⟩⟩
  case final =>
    obtain ⟨hact, rfl, hkey, hread⟩ := hholds
    refine ⟨finish .ok 0 (finishInner s.halg nbytes.toNat s), exec_hmacFinal_of_lt hact hn, finish_completed .ok 0 _,
      finishInner_hact _ _ s, ?_⟩
    cases halg : s.halg with
    | sha m =>
      rw [halg] at hkey hread hn htotal
      rw [hmacOf, ← digest_finishedSha hkey hread hn htotal]
      exact digestIs_finishInner_sha _ m hwf
    | rmd160 =>
      rw [halg] at hkey hread hn htotal
      rw [hmacOf, ← digest_finishedRmd hkey hread hn htotal]
      exact digestIs_finishInner_rmd _ hwf

end Sys2Proof.Machine

/-! The curve, `EcDouble` and `EcAdd` (R203 to R205): when a point is on the curve, what each function answers case by case, and
the tangent and chord rules as equations in the ring of integers modulo `p`. -/

namespace Sys2Proof.Machine

/-! ## Residues and inverses as elements of the ring of integers modulo `m` -/

theorem cast_residue {m : Nat} (hm : 0 < m) (z : Int) : ((residue z m : Nat) : ZMod m) = z := by
  rw [← Int.cast_natCast, residue_cast z hm, ZMod.intCast_mod]

theorem cast_mul_modInverse {x n i : Nat} (hn : 0 < n) (h : modInverse x n = some i) : (x : ZMod n) * i = 1 := by
  rw [← Nat.cast_mul, ← Nat.cast_one]
  exact (ZMod.natCast_eq_natCast_iff' _ _ n).2 (inverse_of_modInverse hn h)

theorem exists_modInverse {x n : Nat} (h : Nat.gcd x n = 1) : ∃ i, modInverse x n = some i :=
  Option.ne_none_iff_exists'.1 fun hnone => modInverse_eq_none_iff.1 hnone ((Nat.mod_modEq x n).gcd_eq.trans h)

/-- The residue of an integer has the divisors in common with the modulus that the integer has. -/
theorem gcd_residue {m : Nat} (hm : 0 < m) (z : Int) : Nat.gcd (residue z m) m = Int.gcd z m := by
  rw [← Int.gcd_natCast_natCast, residue_cast z hm, Int.gcd_emod]

/-! ## The curve (R203) -/

section

variable {c : Curve} {x y : Nat}

@[simp] theorem isOnCurve_inf (c : Curve) : isOnCurve c .inf = true := rfl

theorem isOnCurve_affine_iff : isOnCurve c (.affine x y) = true ↔
    x < c.p ∧ y < c.p ∧ y ^ 2 % c.p = (x ^ 3 + c.a * x + c.b) % c.p := by
  simp [isOnCurve, and_assoc, pow_succ]

theorem isOnCurve_affine_iff_cast : isOnCurve c (.affine x y) = true ↔
    x < c.p ∧ y < c.p ∧ (y : ZMod c.p) ^ 2 = x ^ 3 + c.a * x + c.b := by
  rw [isOnCurve_affine_iff, ← ZMod.natCast_eq_natCast_iff']
  push_cast
  rfl

end
/-! ## The third point of a line (R204, R205) -/

/-- The reduced point in which the chord and the tangent rule end: the third point, negated, of the line with slope `lam`
through `(x1, y1)` and a point with abscissa `x2`. -/
structure ThirdPoint (p lam x1 y1 x2 x3 y3 : Nat) : Prop where
  x_lt : x3 < p
  y_lt : y3 < p
  x_eq : (x3 : ZMod p) = lam ^ 2 - x1 - x2
  y_eq : (y3 : ZMod p) = lam * (x1 - x3) - y1

theorem exists_thirdPoint {p : Nat} (hp : 0 < p) (lam x1 y1 x2 : Nat) :
    ∃ x3 y3, thirdPoint p lam x1 y1 x2 = .affine x3 y3 ∧ ThirdPoint p lam x1 y1 x2 x3 y3 := by
  refine ⟨_, _, rfl, residue_lt _ hp, residue_lt _ hp, ?_, ?_⟩
  · rw [cast_residue hp]
    push_cast
    ring
  · rw [cast_residue hp]
    push_cast
    rfl

section

variable {p lam lam' x1 y1 x2 y2 x3 y3 x3' y3' : Nat} (h : ThirdPoint p lam x1 y1 x2 x3 y3)
include h

/-- The congruences of the rules for the coordinates. -/
theorem ThirdPoint.modEq : (x3 : Int) ≡ lam ^ 2 - x1 - x2 [ZMOD p] ∧ (y3 : Int) ≡ lam * (x1 - x3) - y1 [ZMOD p] := by
  refine ⟨(ZMod.intCast_eq_intCast_iff _ _ p).1 ?_, (ZMod.intCast_eq_intCast_iff _ _ p).1 ?_⟩ <;> push_cast
  · exact h.x_eq
  · exact h.y_eq

/-- The slope modulo `p` alone matters, and the line may be taken through either of its two points. -/
theorem ThirdPoint.symm_unique (h' : ThirdPoint p lam' x2 y2 x1 x3' y3') (hlam : (lam' : ZMod p) = lam)
    (hline : (lam : ZMod p) * (x2 - x1) = y2 - y1) : x3' = x3 ∧ y3' = y3 := by
  have hx : (x3' : ZMod p) = x3 := by
    rw [h.x_eq, h'.x_eq, hlam]
    ring
  refine ⟨(eq_iff_cast_eq_of_lt h'.x_lt h.x_lt).2 hx, (eq_iff_cast_eq_of_lt h'.y_lt h.y_lt).2 ?_⟩
  rw [h.y_eq, h'.y_eq, hlam, hx]
  linear_combination hline

end

/-! ## `EcDouble` (R204) -/

/-- `EcDouble` of `(x, y)` answers the third point of the tangent there. -/
def TangentRule (c : Curve) (x y : Nat) : Prop :=
  ∃ lam x3 y3 : Nat, ecDouble c (.affine x y) = .ok (.affine x3 y3) ∧
    (lam : ZMod c.p) * (2 * y) = 3 * x ^ 2 + c.a ∧ ThirdPoint c.p lam x y x x3 y3

section

variable {c : Curve} {x y : Nat}

theorem ecDouble_of_off {p : Point} (h : isOnCurve c p = false) : ecDouble c p = .error .notOnCurve := by
  simp [ecDouble, h]

@[simp] theorem ecDouble_inf (c : Curve) : ecDouble c .inf = .ok .inf := rfl

theorem ecDouble_of_zero (hon : isOnCurve c (.affine x 0) = true) : ecDouble c (.affine x 0) = .ok .inf := by
  simp [ecDouble, hon]

theorem ecDouble_of_noInverse (hon : isOnCurve c (.affine x y) = true) (hy : y ≠ 0) (hgcd : Nat.gcd (2 * y % c.p) c.p ≠ 1) :
    ecDouble c (.affine x y) = .error .noInverse := by
  have hnone : modInverse (2 * y % c.p) c.p = none := modInverse_eq_none_iff.2 (by rwa [Nat.mod_mod])
  simp [ecDouble, hon, hy, hnone]

theorem ecDouble_tangent (hc : 0 < c.p) (hon : isOnCurve c (.affine x y) = true) (hy : y ≠ 0)
    (hgcd : Nat.gcd (2 * y % c.p) c.p = 1) : TangentRule c x y := by
  obtain ⟨i, hi⟩ := exists_modInverse hgcd
  have hinv := cast_mul_modInverse hc hi
  obtain ⟨x3, y3, hthird, hspec⟩ := exists_thirdPoint hc ((3 * x * x + c.a) * i % c.p) x y x
  refine ⟨_, x3, y3, by simp [ecDouble, hon, hy, hi, hthird], ?_, hspec⟩
  push_cast [ZMod.natCast_mod] at hinv ⊢
  linear_combination (3 * (x : ZMod c.p) ^ 2 + c.a) * hinv

end

/-! ## `EcAdd` (R205) -/

/-- `EcAdd` of two points answers the third point of the chord through them. -/
def ChordRule (c : Curve) (x1 y1 x2 y2 : Nat) : Prop :=
  ∃ lam x3 y3 : Nat, ecAdd c (.affine x1 y1) (.affine x2 y2) = .ok (.affine x3 y3) ∧
    (lam : ZMod c.p) * (x2 - x1) = y2 - y1 ∧ ThirdPoint c.p lam x1 y1 x2 x3 y3

section

variable {c : Curve} {x1 y1 x2 y2 : Nat}

theorem ecAdd_of_off {p q : Point} (h : isOnCurve c p = false ∨ isOnCurve c q = false) :
    ecAdd c p q = .error .notOnCurve := by
  rcases h with h | h <;> simp [ecAdd, h]

theorem ecAdd_inf_left {p : Point} (hon : isOnCurve c p = true) : ecAdd c .inf p = .ok p := by
  simp [ecAdd, hon]

theorem ecAdd_inf_right {p : Point} (hon : isOnCurve c p = true) : ecAdd c p .inf = .ok p := by
  cases p <;> simp [ecAdd, hon]

variable (hon1 : isOnCurve c (.affine x1 y1) = true)
include hon1

theorem ecAdd_self : ecAdd c (.affine x1 y1) (.affine x1 y1) = ecDouble c (.affine x1 y1) := by
  simp [ecAdd, hon1]

variable (hon2 : isOnCurve c (.affine x2 y2) = true)
include hon2

theorem ecAdd_vertical (hx : x1 = x2) (hy : y1 ≠ y2) : ecAdd c (.affine x1 y1) (.affine x2 y2) = .ok .inf := by
  subst hx
  simp [ecAdd, hon1, hon2, hy]

theorem ecAdd_of_noInverse (hc : 0 < c.p) (hx : x1 ≠ x2) (hgcd : Int.gcd ((x2 : Int) - x1) c.p ≠ 1) :
    ecAdd c (.affine x1 y1) (.affine x2 y2) = .error .noInverse := by
  have hnone : modInverse (residue ((x2 : Int) - x1) c.p) c.p = none :=
    modInverse_eq_none_iff.2 (by rwa [Nat.mod_eq_of_lt (residue_lt _ hc), gcd_residue hc])
  simp [ecAdd, hon1, hon2, hx, hnone]

theorem ecAdd_chord (hc : 0 < c.p) (hx : x1 ≠ x2) (hgcd : Int.gcd ((x2 : Int) - x1) c.p = 1) : ChordRule c x1 y1 x2 y2 := by
  obtain ⟨i, hi⟩ := exists_modInverse ((gcd_residue hc _).trans hgcd)
  have hinv := cast_mul_modInverse hc hi
  obtain ⟨x3, y3, hthird, hspec⟩ := exists_thirdPoint hc (residue (((y2 : Int) - y1) * i) c.p) x1 y1 x2
  refine ⟨_, x3, y3, by simp [ecAdd, hon1, hon2, hx, hi, hthird], ?_, hspec⟩
  rw [cast_residue hc] at hinv ⊢
  push_cast at hinv ⊢
  linear_combination ((y2 : ZMod c.p) - y1) * hinv

end

/-- Settles O53: the answers of `EcAdd`, one for each position of the two points. -/
theorem ecAddContract : Obligations.EcAddContract := by
  intro c hc
  refine ⟨fun p q => ecAdd_of_off, fun p hon => ⟨ecAdd_inf_left hon, ecAdd_inf_right hon⟩,
    fun x1 y1 x2 y2 hon1 hon2 => ⟨?_, ecAdd_vertical hon1 hon2, ecAdd_of_noInverse hon1 hon2 hc, fun hx hgcd => ?_⟩⟩
  · rintro rfl rfl
    exact ecAdd_self hon1
  · obtain ⟨lam, x3, y3, hok, hlam, hthird⟩ := ecAdd_chord hon1 hon2 hc hx hgcd
    refine ⟨lam, x3, y3, hok, hthird.x_lt, hthird.y_lt, ?_, hthird.modEq⟩
    exact (ZMod.intCast_eq_intCast_iff _ _ c.p).1 (by push_cast; exact hlam)

/-! ## The inverses that the rules need over a prime field (R204, R205) -/

theorem cast_sub_ne_zero {p x1 x2 : Nat} (h1 : x1 < p) (h2 : x2 < p) (hne : x1 ≠ x2) : (x2 : ZMod p) - x1 ≠ 0 :=
  sub_ne_zero.2 fun h => hne ((eq_iff_cast_eq_of_lt h2 h1).2 h).symm

section

variable {p : Nat} (hp : Nat.Prime p)
include hp

theorem gcd_two_mul_of_odd_prime (hodd : p ≠ 2) {y : Nat} (hy : y ≠ 0) (hlt : y < p) : Nat.gcd (2 * y % p) p = 1 := by
  have h2 : Nat.Coprime 2 p := (Nat.coprime_primes Nat.prime_two hp).2 hodd.symm
  have hy' : Nat.Coprime y p := (Nat.coprime_of_lt_prime hy hlt hp).symm
  exact (Nat.mod_modEq (2 * y) p).gcd_eq.trans (h2.mul_left hy')

theorem gcd_sub_of_prime {x1 x2 : Nat} (h1 : x1 < p) (h2 : x2 < p) (hne : x1 ≠ x2) : Int.gcd ((x2 : Int) - x1) p = 1 := by
  have hndvd : ¬ (p : Int) ∣ (x2 : Int) - x1 := fun hdvd => by
    have hzero := (ZMod.intCast_zmod_eq_zero_iff_dvd _ p).2 hdvd
    push_cast at hzero
    exact cast_sub_ne_zero h1 h2 hne hzero
  rw [Int.gcd_comm]
  exact Int.isCoprime_iff_gcd_eq_one.1 ((Prime.coprime_iff_not_dvd (Nat.prime_iff_prime_int.1 hp)).2 hndvd)

end

/-- Over an odd prime field the tangent rule answers wherever the tangent is not vertical (R204). -/
theorem ecDouble_of_prime {c : Curve} (hp : Nat.Prime c.p) (hodd : c.p ≠ 2) {x y : Nat}
    (hon : isOnCurve c (.affine x y) = true) (hy : y ≠ 0) : TangentRule c x y := by
  obtain ⟨-, hlt, -⟩ := isOnCurve_affine_iff.1 hon
  exact ecDouble_tangent hp.pos hon hy (gcd_two_mul_of_odd_prime hp hodd hy hlt)

/-- Over a prime field the chord rule answers for any two different abscissas (R205). -/
theorem ecAdd_of_prime {c : Curve} (hp : Nat.Prime c.p) {x1 y1 x2 y2 : Nat} (hon1 : isOnCurve c (.affine x1 y1) = true)
    (hon2 : isOnCurve c (.affine x2 y2) = true) (hx : x1 ≠ x2) : ChordRule c x1 y1 x2 y2 := by
  obtain ⟨hlt1, -, -⟩ := isOnCurve_affine_iff.1 hon1
  obtain ⟨hlt2, -, -⟩ := isOnCurve_affine_iff.1 hon2
  exact ecAdd_chord hon1 hon2 hp.pos hx (gcd_sub_of_prime hp hlt1 hlt2 hx)

end Sys2Proof.Machine

/-! The group operations and the scalar multiple (R206 to R208): over an odd prime field they stay on the curve, a point and its
negation add to infinity, and addition commutes. -/

namespace Sys2Proof.Machine

/-! ## The third point lies on the curve

A line meets the cubic in three points, so the line through two of them, or the tangent at one, meets it again where the sum of
the three abscissas is the square of the slope. -/

theorem tangent_thirdPoint_on_cubic {R : Type} [CommRing R] {a b lam x y x3 y3 : R} (hon : y ^ 2 = x ^ 3 + a * x + b)
    (hlam : lam * (2 * y) = 3 * x ^ 2 + a) (hx3 : x3 = lam ^ 2 - x - x) (hy3 : y3 = lam * (x - x3) - y) :
    y3 ^ 2 = x3 ^ 3 + a * x3 + b := by
  subst hy3 hx3
  linear_combination hon + (lam ^ 2 - 3 * x) * hlam

theorem chord_thirdPoint_on_cubic {F : Type} [Field F] {a b lam x1 y1 x2 y2 x3 y3 : F} (hon1 : y1 ^ 2 = x1 ^ 3 + a * x1 + b)
    (hon2 : y2 ^ 2 = x2 ^ 3 + a * x2 + b) (hne : x2 - x1 ≠ 0) (hlam : lam * (x2 - x1) = y2 - y1)
    (hx3 : x3 = lam ^ 2 - x1 - x2) (hy3 : y3 = lam * (x1 - x3) - y1) : y3 ^ 2 = x3 ^ 3 + a * x3 + b := by
  have hline : y2 = y1 + lam * (x2 - x1) := by linear_combination -hlam
  subst hline hy3 hx3
  refine mul_left_cancel₀ hne ?_
  linear_combination (lam ^ 2 - x1 - x2 - x1) * hon2 - (lam ^ 2 - x1 - x2 - x2) * hon1

section

variable {c : Curve} (hp : Nat.Prime c.p)
include hp

theorem ecDouble_onCurve (hodd : c.p ≠ 2) {p : Point} (hon : isOnCurve c p = true) :
    ∃ r, ecDouble c p = .ok r ∧ isOnCurve c r = true := by
  cases p with
  | inf => exact ⟨.inf, rfl, rfl⟩
  | affine x y =>
    by_cases hy : y = 0
    · subst hy
      exact ⟨.inf, ecDouble_of_zero hon, rfl⟩
    · obtain ⟨lam, x3, y3, hok, hlam, hthird⟩ := ecDouble_of_prime hp hodd hon hy
      obtain ⟨-, -, hcurve⟩ := isOnCurve_affine_iff_cast.1 hon
      have hcurve3 := tangent_thirdPoint_on_cubic hcurve hlam hthird.x_eq hthird.y_eq
      exact ⟨_, hok, isOnCurve_affine_iff_cast.2 ⟨hthird.x_lt, hthird.y_lt, hcurve3⟩⟩

theorem ecAdd_onCurve (hodd : c.p ≠ 2) {p q : Point} (honp : isOnCurve c p = true) (honq : isOnCurve c q = true) :
    ∃ r, ecAdd c p q = .ok r ∧ isOnCurve c r = true := by
  cases p with
  | inf => exact ⟨q, ecAdd_inf_left honq, honq⟩
  | affine x1 y1 =>
    cases q with
    | inf => exact ⟨_, ecAdd_inf_right honp, honp⟩
    | affine x2 y2 =>
      by_cases hx : x1 = x2
      · by_cases hy : y1 = y2
        · subst hx hy
          rw [ecAdd_self honp]
          exact ecDouble_onCurve hp hodd honp
        · exact ⟨.inf, ecAdd_vertical honp honq hx hy, rfl⟩
      · have : Fact c.p.Prime := ⟨hp⟩
        obtain ⟨lam, x3, y3, hok, hlam, hthird⟩ := ecAdd_of_prime hp honp honq hx
        obtain ⟨hlt1, -, hcurve1⟩ := isOnCurve_affine_iff_cast.1 honp
        obtain ⟨hlt2, -, hcurve2⟩ := isOnCurve_affine_iff_cast.1 honq
        have hcurve3 := chord_thirdPoint_on_cubic hcurve1 hcurve2 (cast_sub_ne_zero hlt1 hlt2 hx) hlam hthird.x_eq hthird.y_eq
        exact ⟨_, hok, isOnCurve_affine_iff_cast.2 ⟨hthird.x_lt, hthird.y_lt, hcurve3⟩⟩

end

/-- Settles O52: the answers of `EcDouble`; over an odd prime field `2y` is invertible, so the tangent rule answers. -/
theorem ecDoubleContract : Obligations.EcDoubleContract := by
  intro c hc
  refine ⟨fun p => ecDouble_of_off, ecDouble_inf c, fun hp hodd p herr => ?_, fun x y hon => ⟨?_, ?_, fun hy hgcd => ?_⟩⟩
  · cases hon : isOnCurve c p with
    | false => cases (ecDouble_of_off hon).symm.trans herr
    | true =>
      obtain ⟨r, hok, -⟩ := ecDouble_onCurve hp hodd hon
      cases hok.symm.trans herr
  · rintro rfl
    exact ecDouble_of_zero hon
  · exact ecDouble_of_noInverse hon
  · obtain ⟨lam, x3, y3, hok, hlam, hthird⟩ := ecDouble_tangent hc hon hy hgcd
    obtain ⟨hx3, hy3⟩ := hthird.modEq
    refine ⟨lam, x3, y3, hok, hthird.x_lt, hthird.y_lt, ?_, by simpa [two_mul, sub_sub] using hx3, hy3⟩
    exact (ZMod.intCast_eq_intCast_iff _ _ c.p).1 (by push_cast; exact hlam)

/-! ## The loop of `EcMul` (R207) -/

section

variable {c : Curve} {pt : Point}

/-- One round of the loop: the accumulator doubled and, for a 1 bit, the point added. -/
def mulRound (c : Curve) (pt : Point) (bit : Bool) (acc : Point) : Except EcError Point :=
  ecDouble c acc >>= fun d => if bit then ecAdd c d pt else .ok d

/-- The first round that fails decides. -/
theorem mulLoop_cons (bit : Bool) (bits : List Bool) (acc : Point) :
    mulLoop c pt (bit :: bits) acc = (mulRound c pt bit acc >>= mulLoop c pt bits) := by
  rw [mulLoop, mulRound]
  cases ecDouble c acc with
  | error e => rfl
  | ok d =>
    cases bit with
    | false => rfl
    | true =>
      simp only [bind, Except.bind, if_true]
      cases ecAdd c d pt <;> rfl

theorem mulLoop_append (bits bits' : List Bool) (acc : Point) :
    mulLoop c pt (bits ++ bits') acc = (mulLoop c pt bits acc >>= mulLoop c pt bits') := by
  induction bits generalizing acc with
  | nil => rfl
  | cons bit bits ih =>
    rw [List.cons_append, mulLoop_cons, mulLoop_cons, funext ih, bind_assoc _ (mulLoop c pt bits)]

theorem mulLoop_singleton (bit : Bool) (acc : Point) :
    mulLoop c pt [bit] acc = mulRound c pt bit acc := by
  rw [mulLoop_cons]
  exact bind_pure _

theorem mulLoop_inf (bits : List Bool) : mulLoop c .inf bits .inf = .ok .inf := by
  induction bits with
  | nil => rfl
  | cons bit bits ih =>
    rw [mulLoop_cons]
    cases bit <;> exact ih

theorem mulRound_onCurve (hp : Nat.Prime c.p) (hodd : c.p ≠ 2) (hon : isOnCurve c pt = true) (bit : Bool) {acc : Point}
    (hacc : isOnCurve c acc = true) : ∃ r, mulRound c pt bit acc = .ok r ∧ isOnCurve c r = true := by
  obtain ⟨d, hd, hdon⟩ := ecDouble_onCurve hp hodd hacc
  rw [mulRound, hd]
  cases bit with
  | false => exact ⟨d, rfl, hdon⟩
  | true => exact ecAdd_onCurve hp hodd hdon hon

/-- The accumulator stays on the curve, and no round fails. -/
theorem mulLoop_onCurve (hp : Nat.Prime c.p) (hodd : c.p ≠ 2) (hon : isOnCurve c pt = true) (bits : List Bool) {acc : Point}
    (hacc : isOnCurve c acc = true) : ∃ r, mulLoop c pt bits acc = .ok r ∧ isOnCurve c r = true := by
  induction bits generalizing acc with
  | nil => exact ⟨acc, rfl, hacc⟩
  | cons bit bits ih =>
    obtain ⟨r, hr, hron⟩ := mulRound_onCurve hp hodd hon bit hacc
    rw [mulLoop_cons, hr]
    exact ih hron

/-! ## `EcMul` (R207) -/

/-- The bits of a number do not depend on how many more rounds are allowed than it has bits. -/
theorem lowBits_rounds : ∀ {n m k : Nat}, k ≤ n → k ≤ m → lowBits n k = lowBits m k
  | 0, 0, _, _, _ => rfl
  | 0, m + 1, k, hn, _ => by
    obtain rfl := Nat.le_zero.1 hn
    rfl
  | n + 1, 0, k, _, hm => by
    obtain rfl := Nat.le_zero.1 hm
    rfl
  | n + 1, m + 1, k, hn, hm => by
    rw [lowBits, lowBits, lowBits_rounds (by omega : k / 2 ≤ n) (by omega : k / 2 ≤ m)]

/-- Below the lowest bit stand the bits of the half. -/
theorem lowBits_of_pos {k : Nat} (hk : 0 < k) : lowBits k k = decide (k % 2 = 1) :: lowBits (k / 2) (k / 2) := by
  obtain ⟨n, rfl⟩ := Nat.exists_eq_succ_of_ne_zero hk.ne'
  rw [lowBits, if_neg hk.ne', lowBits_rounds (by omega) le_rfl]

theorem ecMul_of_off (h : isOnCurve c pt = false) (k : Nat) : ecMul c k pt = .error .notOnCurve := by
  simp [ecMul, h]

theorem ecMul_mod (c : Curve) (k : Nat) (pt : Point) : ecMul c k pt = ecMul c (k % c.p) pt := by
  simp [ecMul]

theorem ecMul_inf (c : Curve) (k : Nat) : ecMul c k .inf = .ok .inf := mulLoop_inf _

theorem ecMul_of_lt (hon : isOnCurve c pt = true) {k : Nat} (hk : k < c.p) :
    ecMul c k pt = mulLoop c pt (lowBits k k).reverse .inf := by
  simp [ecMul, hon, Nat.mod_eq_of_lt hk]

theorem ecMul_zero (hon : isOnCurve c pt = true) : ecMul c 0 pt = .ok .inf := by
  simp [ecMul, hon, lowBits, mulLoop]

/-- Double-and-add, with the lowest bit last. -/
theorem ecMul_of_pos (hon : isOnCurve c pt = true) {k : Nat} (hpos : 0 < k) (hk : k < c.p) :
    ecMul c k pt =
      (ecMul c (k / 2) pt >>= fun r => ecDouble c r >>= fun d => if k % 2 = 1 then ecAdd c d pt else .ok d) := by
  rw [ecMul_of_lt hon hk, ecMul_of_lt hon (by omega : k / 2 < c.p), lowBits_of_pos hpos, List.reverse_cons, mulLoop_append]
  refine congrArg (mulLoop c pt _ .inf >>= ·) (funext fun r => ?_)
  rw [mulLoop_singleton, mulRound]
  simp only [decide_eq_true_eq]

theorem ecMul_one (hon : isOnCurve c pt = true) (hc : 1 < c.p) : ecMul c 1 pt = .ok pt := by
  rw [ecMul_of_pos hon one_pos hc, Nat.div_eq_of_lt one_lt_two, ecMul_zero hon]
  exact ecAdd_inf_left hon

theorem ecMul_onCurve (hp : Nat.Prime c.p) (hodd : c.p ≠ 2) (hon : isOnCurve c pt = true) (k : Nat) :
    ∃ r, ecMul c k pt = .ok r ∧ isOnCurve c r = true := by
  rw [ecMul, if_pos hon]
  exact mulLoop_onCurve hp hodd hon _ (isOnCurve_inf c)

end

/-- Settles O54: the loop runs over the bits of `k mod p`, of which the lowest comes last. -/
theorem ecMulContract : Obligations.EcMulContract := by
  intro c pt hc
  refine ⟨ecMul_of_off, fun k => ecMul_mod c k pt, ecMul_inf c, fun hon => ⟨ecMul_zero hon, ?_, fun h1 => ?_, ?_⟩⟩
  · rw [ecMul_mod, Nat.mod_self, ecMul_zero hon]
  · rw [ecMul_mod, Nat.add_mod_left, Nat.mod_eq_of_lt h1, ecMul_one hon h1]
  · exact fun k => ecMul_of_pos hon

/-- Settles O55: the tangent and the chord rule answer over an odd prime field, and what they answer is on the curve. -/
theorem ecClosedOverPrimeField : Obligations.EcClosedOverPrimeField :=
  fun _ _ _ k hp hodd honp honq =>
    ⟨ecDouble_onCurve hp hodd honp, ecAdd_onCurve hp hodd honp honq, ecMul_onCurve hp hodd honp k⟩

/-! ## Negation (R206) -/

section

variable {c : Curve} {x y : Nat}

/-- The ordinate of the negation, written out. -/
theorem residue_neg {m : Nat} (hm : 0 < m) (y : Nat) : residue (-(y : Int)) m = if y % m = 0 then 0 else m - y % m := by
  have hlt := Nat.mod_lt y hm
  have hneg : -(y : Int) % m = -((y % m : Nat) : Int) % m := by
    rw [Int.natCast_mod]
    exact (Int.mod_modEq y m).neg.symm
  zify
  rw [residue_cast _ hm, hneg]
  split_ifs with h0
  · simp [h0]
  · rw [← Int.add_emod_right, Int.emod_eq_of_lt (by omega) (by omega)]
    omega

theorem ecNegate_onCurve (hc : 0 < c.p) : ∀ {p : Point}, isOnCurve c p = true → isOnCurve c (ecNegate c p) = true
  | .inf, _ => rfl
  | .affine x y, hon => by
    obtain ⟨hx, -, hcurve⟩ := isOnCurve_affine_iff_cast.1 hon
    refine isOnCurve_affine_iff_cast.2 ⟨hx, residue_lt _ hc, ?_⟩
    rw [cast_residue hc, Int.cast_neg, Int.cast_natCast, neg_sq]
    exact hcurve

theorem ecAdd_ecNegate (hodd : c.p % 2 = 1) : ∀ {p : Point}, isOnCurve c p = true → ecAdd c p (ecNegate c p) = .ok .inf
  | .inf, _ => rfl
  | .affine x y, hon => by
    have hc : 0 < c.p := by omega
    have hneg := ecNegate_onCurve hc hon
    obtain ⟨-, hlt, -⟩ := isOnCurve_affine_iff.1 hon
    by_cases hy : y = residue (-(y : Int)) c.p
    · have hy0 : y = 0 := by
        rw [residue_neg hc, Nat.mod_eq_of_lt hlt] at hy
        split_ifs at hy <;> omega
      subst hy0
      rw [ecNegate, ← hy, ecAdd_self hon, ecDouble_of_zero hon]
    · exact ecAdd_vertical hon hneg rfl hy

end

/-! ## Commutativity (R208) -/

theorem ecAdd_comm {c : Curve} (hp : Nat.Prime c.p) : ∀ {p q : Point}, isOnCurve c p = true → isOnCurve c q = true →
    ecAdd c p q = ecAdd c q p
  | .inf, q, _, honq => (ecAdd_inf_left honq).trans (ecAdd_inf_right honq).symm
  | .affine x y, .inf, honp, _ => (ecAdd_inf_right honp).trans (ecAdd_inf_left honp).symm
  | .affine x1 y1, .affine x2 y2, honp, honq => by
    by_cases hx : x1 = x2
    · by_cases hy : y1 = y2
      · rw [hx, hy]
      · rw [ecAdd_vertical honp honq hx hy, ecAdd_vertical honq honp hx.symm (Ne.symm hy)]
    · have : Fact c.p.Prime := ⟨hp⟩
      obtain ⟨hlt1, -, -⟩ := isOnCurve_affine_iff.1 honp
      obtain ⟨hlt2, -, -⟩ := isOnCurve_affine_iff.1 honq
      obtain ⟨lam, x3, y3, hok, hlam, hthird⟩ := ecAdd_of_prime hp honp honq hx
      obtain ⟨lam', x3', y3', hok', hlam', hthird'⟩ := ecAdd_of_prime hp honq honp (Ne.symm hx)
      have hslope : (lam' : ZMod c.p) = lam :=
        mul_left_cancel₀ (cast_sub_ne_zero hlt1 hlt2 hx) (by linear_combination -hlam' - hlam)
      obtain ⟨rfl, rfl⟩ := hthird.symm_unique hthird' hslope hlam
      rw [hok, hok']

/-- Settles O56: of an odd modulus only the ordinate 0 is its own negative; over a field the chord has one slope, whichever of
its points comes first. -/
theorem ecNegationAndCommutativity : Obligations.EcNegationAndCommutativity :=
  ⟨fun _ _ hodd hon => ⟨ecNegate_onCurve (by omega) hon, ecAdd_ecNegate hodd hon⟩,
    fun _ _ _ hp _ honp honq => ecAdd_comm hp honp honq⟩

end Sys2Proof.Machine

/-! The commands of the elliptic-curve unit (R201, R202, R209 to R214): what their words decode to, the modulus check, every
outcome of the point functions, and the frame. -/

namespace Sys2Proof.Machine

/-! ## Point registers (R202) -/

@[simp] theorem value_ofPoint (p : Point) : (PointReg.ofPoint p).value = p := by cases p <;> rfl

theorem readPoint_of_pt {t : State} {i : PtIdx} {p : Point} (h : t.pt[i] = PointReg.ofPoint p) : readPoint t i = p := by
  rw [readPoint, h, value_ofPoint]

theorem readPoint_of_inf {s : State} {i : PtIdx} (h : s.pt[i].inf = true) : readPoint s i = .inf := by
  simp only [readPoint, PointReg.value, h, if_true]

theorem readPoint_of_affine {s : State} {i : PtIdx} (h : s.pt[i].inf = false) :
    readPoint s i = .affine s.pt[i].x s.pt[i].y := by
  simp only [readPoint, PointReg.value, h, Bool.false_eq_true, if_false]

/-! ## How a command of the unit ends -/

theorem sameOutsideEc_refl (s : State) : SameOutsideEc s s :=
  ⟨rfl, ⟨rfl, rfl, rfl, rfl, rfl, rfl⟩, ⟨rfl, rfl, rfl⟩, ⟨rfl, rfl⟩, ⟨rfl, fun _ => rfl⟩, rfl, fun _ => rfl,
    ⟨rfl, rfl, rfl, rfl, rfl⟩, ⟨rfl, rfl, rfl⟩, rfl⟩

theorem curveOf_of_sameOutsideEc {s t : State} (h : SameOutsideEc s t) : curveOf t = curveOf s := by
  obtain ⟨-, ⟨hp, ha, hb, -⟩, -⟩ := h
  rw [curveOf, hp, ha, hb, curveOf]

/-- The outcome is an error completion that changed nothing. -/
def EndsInError (e : ErrCode) (s : State) (o : Result) : Prop :=
  ∃ t, o = .next t ∧ Completed e 0 t ∧ SameButStatus s t

/-- The outcome is a completion that wrote one point register and nothing else. -/
def EndsWritingPoint (pd : PtIdx) (p : Point) (s : State) (o : Result) : Prop :=
  ∃ t, o = .next t ∧ Completed .ok 0 t ∧ t.pt[pd] = PointReg.ofPoint p ∧ SamePointsBut pd s t ∧ SameOutsideEc s t

section

variable (s : State)

theorem endsInError_raiseError (e : ErrCode) : EndsInError e s (raiseError e s) :=
  ⟨finish e 0 s, rfl, finish_completed e 0 s, finish_sameButStatus e 0 s⟩

theorem endsWritingPoint_complete (pd : PtIdx) (p : Point) : EndsWritingPoint pd p s (complete 0 (writePoint pd p s)) := by
  refine ⟨finish .ok 0 (writePoint pd p s), rfl, finish_completed .ok 0 _, ?_, fun k hk => ?_, sameOutsideEc_refl s⟩
  · simp
  · have hne : (pd : Nat) ≠ k := fun h => hk (Fin.ext h.symm)
    simp [hne]

theorem withModulus_of_zero (h : s.cp = 0) (go : Result) : EndsInError .modulus s (withModulus s go) := by
  rw [withModulus, if_pos h]
  exact endsInError_raiseError s .modulus

theorem withModulus_of_ne_zero (h : s.cp ≠ 0) (go : Result) : withModulus s go = go := if_neg h

end

section

variable {s : State} {o : Result}

theorem EndsInError.err_ne_modulus {e : ErrCode} (h : EndsInError e s o) (he : e ≠ .modulus) :
    ∃ t, o = .next t ∧ t.err ≠ .modulus := by
  obtain ⟨t, ht, ⟨herr, -⟩, -⟩ := h
  exact ⟨t, ht, herr ▸ he⟩

theorem EndsWritingPoint.err_eq_ok {pd : PtIdx} {p : Point} (h : EndsWritingPoint pd p s o) :
    ∃ t, o = .next t ∧ t.err = .ok := by
  obtain ⟨t, ht, ⟨herr, -⟩, -⟩ := h
  exact ⟨t, ht, herr⟩

theorem err_ne_modulus_of_ok (h : ∃ t, o = .next t ∧ t.err = .ok) : ∃ t, o = .next t ∧ t.err ≠ .modulus := by
  obtain ⟨t, ht, herr⟩ := h
  exact ⟨t, ht, herr ▸ nofun⟩

/-- No failure of a point function is `ERR_MODULUS` (44_ec.md section 3). -/
theorem completePoint_err_ne_modulus (pd : PtIdx) (r : Except EcError Point) (s : State) :
    ∃ t, completePoint pd r s = .next t ∧ t.err ≠ .modulus := by
  cases r with
  | error e => exact (endsInError_raiseError s e.errCode).err_ne_modulus (by cases e <;> decide)
  | ok p => exact err_ne_modulus_of_ok (endsWritingPoint_complete s pd p).err_eq_ok

end

/-! ## `EC_ONCURVE` (R209) -/

theorem exec_ecOncurve_of_ne_zero {s : State} (h : s.cp ≠ 0) (pa : PtIdx) :
    exec (.ecOncurve pa) s = complete (if isOnCurve (curveOf s) (readPoint s pa) then 1 else 0) s :=
  withModulus_of_ne_zero s h _

/-- The on-curve test on a point register, read field by field (R203). -/
theorem isOnCurve_readPoint_iff (s : State) (pa : PtIdx) : isOnCurve (curveOf s) (readPoint s pa) = true ↔
    (s.pt[pa].inf = true ∨ s.pt[pa].x < s.cp ∧ s.pt[pa].y < s.cp ∧
      s.pt[pa].y ^ 2 % s.cp = (s.pt[pa].x ^ 3 + s.ca * s.pt[pa].x + s.cb) % s.cp) := by
  cases hinf : s.pt[pa].inf with
  | true => simp [readPoint_of_inf hinf]
  | false =>
    rw [readPoint_of_affine hinf, isOnCurve_affine_iff]
    simp [curveOf]

/-- Settles O51: the command writes the answer of the on-curve test into `RES` and writes no register. -/
theorem ecOncurveRule : Obligations.EcOncurveRule := by
  intro pa
  refine ⟨decodeOfEncode (.ecOncurve pa) rfl, fun s => ⟨fun h => withModulus_of_zero s h _, fun h => ?_⟩⟩
  refine ⟨_, _, exec_ecOncurve_of_ne_zero h pa, finish_completed .ok _ s, ?_, ?_, rfl, sameOutsideEc_refl s⟩
  · rw [← isOnCurve_readPoint_iff]
    split_ifs with hon <;> simp [hon]
  · split_ifs
    · exact .inr rfl
    · exact .inl rfl

/-! ## `EC_ADD`, `EC_DBL` and `EC_MUL` (R210 to R212) -/

/-- A group command and what its point function answers on the state's operands. -/
def GroupCommand (pd pa pb : PtIdx) (rk : RegIdx) (s : State) (i : Instr) (r : Except EcError Point) : Prop :=
  i = .ecAdd pd pa pb ∧ r = ecAdd (curveOf s) (readPoint s pa) (readPoint s pb) ∨
    i = .ecDbl pd pa ∧ r = ecDouble (curveOf s) (readPoint s pa) ∨
    i = .ecMul pd pa rk ∧ r = ecMul (curveOf s) s.r[rk] (readPoint s pa)

section

variable {pd pa pb : PtIdx} {rk : RegIdx} {s : State} {i : Instr} {r : Except EcError Point}

theorem GroupCommand.exec_eq (h : GroupCommand pd pa pb rk s i r) : exec i s = withModulus s (completePoint pd r s) := by
  rcases h with ⟨rfl, rfl⟩ | ⟨rfl, rfl⟩ | ⟨rfl, rfl⟩ <;> rfl

theorem GroupCommand.exec_of_zero (h : GroupCommand pd pa pb rk s i r) (hcp : s.cp = 0) :
    EndsInError .modulus s (exec i s) :=
  h.exec_eq ▸ withModulus_of_zero s hcp _

theorem GroupCommand.exec_of_error {e : EcError} (h : GroupCommand pd pa pb rk s i r) (hcp : s.cp ≠ 0) (hr : r = .error e) :
    EndsInError e.errCode s (exec i s) := by
  rw [h.exec_eq, withModulus_of_ne_zero s hcp, hr]
  exact endsInError_raiseError s e.errCode

theorem GroupCommand.exec_of_ok {p : Point} (h : GroupCommand pd pa pb rk s i r) (hcp : s.cp ≠ 0) (hr : r = .ok p) :
    EndsWritingPoint pd p s (exec i s) := by
  rw [h.exec_eq, withModulus_of_ne_zero s hcp, hr]
  exact endsWritingPoint_complete s pd p

/-- When the point function answers an on-curve point, the command leaves that point in `PT[pd]`. -/
theorem GroupCommand.exec_onCurve (h : GroupCommand pd pa pb rk s i r) (hcp : s.cp ≠ 0)
    (hr : ∃ p, r = .ok p ∧ isOnCurve (curveOf s) p = true) :
    ∃ t, exec i s = .next t ∧ Completed .ok 0 t ∧ r = .ok (readPoint t pd) ∧
      isOnCurve (curveOf t) (readPoint t pd) = true ∧ SamePointsBut pd s t ∧ SameOutsideEc s t := by
  obtain ⟨p, hp, hon⟩ := hr
  obtain ⟨t, ht, hdone, hpt, hpoints, hframe⟩ := h.exec_of_ok hcp hp
  rw [hp]
  refine ⟨t, ht, hdone, ?_, ?_, hpoints, hframe⟩
  · rw [readPoint_of_pt hpt]
  · rw [readPoint_of_pt hpt, curveOf_of_sameOutsideEc hframe, hon]

end

/-- Settles O57: over an odd prime field the point functions answer on-curve points, which the commands write. -/
theorem ecGroupCommandsComplete : Obligations.EcGroupCommandsComplete := by
  intro pd pa pb rk s hp hodd hona
  have hcp : s.cp ≠ 0 := hp.ne_zero
  refine ⟨?_, ?_, fun honb => ?_⟩
  · exact GroupCommand.exec_onCurve (pb := pb) (rk := rk) (.inr (.inl ⟨rfl, rfl⟩)) hcp
      (ecDouble_onCurve (c := curveOf s) hp hodd hona)
  · exact GroupCommand.exec_onCurve (pb := pb) (.inr (.inr ⟨rfl, rfl⟩)) hcp
      (ecMul_onCurve (c := curveOf s) hp hodd hona _)
  · exact GroupCommand.exec_onCurve (rk := rk) (.inl ⟨rfl, rfl⟩) hcp
      (ecAdd_onCurve (c := curveOf s) hp hodd hona honb)

/-- Settles O58: the modulus check, then one ending for each answer of the point function. -/
theorem ecGroupCommandRules : Obligations.EcGroupCommandRules := by
  intro pd pa pb rk
  refine ⟨decodeOfEncode (.ecAdd pd pa pb) rfl, decodeOfEncode (.ecDbl pd pa) rfl, decodeOfEncode (.ecMul pd pa rk) rfl,
    fun s i r hcmd => ?_⟩
  have h : GroupCommand pd pa pb rk s i r := hcmd
  exact ⟨h.exec_of_zero, h.exec_of_error, h.exec_of_error, h.exec_of_ok, fun x y => h.exec_of_ok⟩

/-! ## `EC_NEG` (R213) and `EC_LDG` (R214) -/

theorem exec_ecNeg_of_ne_zero {s : State} (h : s.cp ≠ 0) (pd pa : PtIdx) :
    EndsWritingPoint pd (ecNegate (curveOf s) (readPoint s pa)) s (exec (.ecNeg pd pa) s) := by
  have hexec : exec (.ecNeg pd pa) s = complete 0 (writePoint pd (ecNegate (curveOf s) (readPoint s pa)) s) :=
    withModulus_of_ne_zero s h _
  rw [hexec]
  exact endsWritingPoint_complete s pd _

theorem exec_ecLdg (pd : PtIdx) (s : State) : EndsWritingPoint pd (.affine s.gx s.gy) s (exec (.ecLdg pd) s) :=
  endsWritingPoint_complete s pd _

/-- Settles O59: the negation of infinity is infinity, and of an affine point the point with the negated ordinate. -/
theorem ecNegRule : Obligations.EcNegRule := by
  intro pd pa
  refine ⟨decodeOfEncode (.ecNeg pd pa) rfl, fun s => ⟨fun h => withModulus_of_zero s h _, fun h => ?_⟩⟩
  obtain ⟨t, ht, hdone, hpt, hpoints, hframe⟩ := exec_ecNeg_of_ne_zero h pd pa
  refine ⟨t, ht, hdone, fun hinf => ?_, fun haff => ?_, hpoints, hframe⟩
  · rw [hpt, readPoint_of_inf hinf]
    rfl
  · rw [hpt, readPoint_of_affine haff]
    exact ⟨rfl, rfl, residue_neg (Nat.pos_of_ne_zero h) _⟩

/-- Settles O60: the command is one write of a point register. -/
theorem ecLdgRule : Obligations.EcLdgRule :=
  fun pd => ⟨decodeOfEncode (.ecLdg pd) rfl, exec_ecLdg pd⟩

/-! ## The modulus check (R201) -/

/-- A command that begins with the check ends in `ERR_MODULUS` exactly when the modulus is 0. -/
theorem withModulus_rule {s : State} {go : Result} (hgo : ∃ t, go = .next t ∧ t.err ≠ .modulus) :
    (s.cp = 0 → EndsInError .modulus s (withModulus s go)) ∧
      (s.cp ≠ 0 → ∃ t, withModulus s go = .next t ∧ t.err ≠ .modulus) :=
  ⟨fun h => withModulus_of_zero s h go, fun h => (withModulus_of_ne_zero s h go).symm ▸ hgo⟩

/-- Settles O50: five commands are the check before an ending that never raises `ERR_MODULUS`; `EC_LDG` is without it. -/
theorem ecModulusRule : Obligations.EcModulusRule := by
  intro pd pa pb rk s
  refine ⟨?_, (exec_ecLdg pd s).err_eq_ok⟩
  simp only [List.forall_mem_cons, List.not_mem_nil, false_imp_iff, implies_true, and_true]
  refine ⟨?oncurve, ?add, ?dbl, ?mul, ?neg⟩
  case oncurve => exact withModulus_rule (err_ne_modulus_of_ok ⟨_, rfl, rfl⟩)
  case add => exact withModulus_rule (completePoint_err_ne_modulus pd _ s)
  case dbl => exact withModulus_rule (completePoint_err_ne_modulus pd _ s)
  case mul => exact withModulus_rule (completePoint_err_ne_modulus pd _ s)
  case neg => exact withModulus_rule (err_ne_modulus_of_ok (endsWritingPoint_complete s pd _).err_eq_ok)

end Sys2Proof.Machine

/-! A command that ends in error (R13, R242): the state it leaves is the one it began in with `STATUS` rewritten, and with the
answers it drew gone from the random source, which is no state of the block (R8). -/

namespace Sys2Proof.Machine

/-! ## Every command ends without error or by raising one on the state it began in -/

/-- `t` carries no error code, or it is what raising one leaves of `s`, whatever answers the random source has given. -/
def OkOrRaisedFrom (s t : State) : Prop :=
  t.err = .ok ∨ ∃ e port, t = finish e 0 (writeRnd port s)

section

variable (s : State)

theorem okOrRaised_complete (k : BitVec 2) (t : State) : EndsIn (OkOrRaisedFrom s) (complete k t) :=
  endsIn_complete (.inl rfl)

theorem okOrRaised_raiseError_writeRnd (e : ErrCode) (port : RndPort) :
    EndsIn (OkOrRaisedFrom s) (raiseError e (writeRnd port s)) :=
  endsIn_raiseError (.inr ⟨e, port, rfl⟩)

/-- Without a draw the random source is as it was. -/
theorem okOrRaised_raiseError (e : ErrCode) : EndsIn (OkOrRaisedFrom s) (raiseError e s) :=
  okOrRaised_raiseError_writeRnd s e s.rnd

theorem okOrRaised_withModulus {go : Result} (h : EndsIn (OkOrRaisedFrom s) go) :
    EndsIn (OkOrRaisedFrom s) (withModulus s go) :=
  endsIn_ite (okOrRaised_raiseError s .modulus) h

theorem okOrRaised_completePoint (pd : PtIdx) : ∀ r : Except EcError Point,
    EndsIn (OkOrRaisedFrom s) (completePoint pd r s)
  | .error e => okOrRaised_raiseError s e.errCode
  | .ok _ => okOrRaised_complete s 0 _

theorem okOrRaised_execModinv (rd ra rb : RegIdx) : EndsIn (OkOrRaisedFrom s) (execModinv rd ra rb s) := by
  refine endsIn_ite (okOrRaised_raiseError s .modulus) ?_
  split
  · exact okOrRaised_raiseError s .noInverse
  · exact okOrRaised_complete s 0 _

/-- `SQRTMOD` draws before it can tell whether the modulus is bad, and writes its roots only when it is not. -/
theorem okOrRaised_endSqrtmod (rd rc : RegIdx) (port : RndPort) : ∀ res : SqrtResult,
    EndsIn (OkOrRaisedFrom s) (endSqrtmod rd rc (writeRnd port s) res)
  | .badModulus => okOrRaised_raiseError_writeRnd s .modulus port
  | .noRoot => okOrRaised_complete s 0 _
  | .zeroRoot => okOrRaised_complete s 1 _
  | .twoRoots _ _ => okOrRaised_complete s 2 _
  | .unspecified => by rintro u ⟨⟩

theorem okOrRaised_sqrtmod (rd rc ra rb : RegIdx) (rounds : BitVec 8) :
    EndsIn (OkOrRaisedFrom s) (exec (.sqrtmod rd rc ra rb rounds) s) := by
  by_cases hdist : rd ≠ rc
  · rw [exec_sqrtmod hdist]
    exact okOrRaised_endSqrtmod s rd rc _ _
  · rw [exec_sqrtmod_of_coinciding hdist]
    exact okOrRaised_raiseError s .illegal

/-- No command writes a destination before the last of its checks (R242). -/
theorem okOrRaised_exec : ∀ i : Instr, EndsIn (OkOrRaisedFrom s) (exec i s)
  | .gcd .. => okOrRaised_complete s 0 _
  | .egcd .. => endsIn_ite (okOrRaised_complete s 0 _) (okOrRaised_raiseError s .illegal)
  | .modinv rd ra rb => okOrRaised_execModinv s rd ra rb
  | .sqrtmod rd rc ra rb rounds => okOrRaised_sqrtmod s rd rc ra rb rounds
  | .shaInit _ => okOrRaised_complete s 0 _
  | .shaBlock => okOrRaised_complete s 0 _
  | .shaFinal _ => endsIn_ite (okOrRaised_raiseError s .param) (okOrRaised_complete s 0 _)
  | .rmdInit => okOrRaised_complete s 0 _
  | .rmdBlock => okOrRaised_complete s 0 _
  | .rmdFinal _ => endsIn_ite (okOrRaised_raiseError s .param) (okOrRaised_complete s 0 _)
  | .hmacInit .. => endsIn_ite (okOrRaised_raiseError s .param) (okOrRaised_complete s 0 _)
  | .hmacFinal _ =>
    endsIn_ite (okOrRaised_raiseError s .seq) (endsIn_ite (okOrRaised_raiseError s .param) (okOrRaised_complete s 0 _))
  | .ecOncurve _ => okOrRaised_withModulus s (okOrRaised_complete s _ s)
  | .ecAdd pd _ _ => okOrRaised_withModulus s (okOrRaised_completePoint s pd _)
  | .ecDbl pd _ => okOrRaised_withModulus s (okOrRaised_completePoint s pd _)
  | .ecMul pd _ _ => okOrRaised_withModulus s (okOrRaised_completePoint s pd _)
  | .ecNeg .. => okOrRaised_withModulus s (okOrRaised_complete s 0 _)
  | .ecLdg _ => okOrRaised_complete s 0 _

end

/-- Settles O7: a next state with an error code is the one the command began in with the code raised on it, which sets `DONE`
and keeps `IE`. -/
theorem errorChangesNothing : Obligations.ErrorChangesNothing := by
  intro i s t h herr
  obtain hok | ⟨e, port, rfl⟩ := okOrRaised_exec s i t h
  · exact absurd hok herr
  · obtain ⟨-, hres, hbusy, hdone⟩ := finish_completed e 0 (writeRnd port s)
    exact ⟨finish_sameButStatus e 0 (writeRnd port s), hres, hbusy, hdone, irq_of_done hdone⟩

end Sys2Proof.Machine
